-- ==== Sys2Proof/Word.lean ====
section
/-! DEFINITION. The words of the hardware: bytes and the two fixed byte arrays (00_scope.md R16;
10_state.md T-STATE). A time or a duration is a `Nat`: a number of microseconds, unbounded (R9, R16). -/

namespace Sys2Proof

/-- A byte: 8 bits, bit 0 the least significant (R16). -/
abbrev Byte := BitVec 8

/-- Seven bytes: the family code and the six serial bytes, the `rom_in` operand of `begin` (R251). -/
structure Bytes7 where
  b0 : Byte
  b1 : Byte
  b2 : Byte
  b3 : Byte
  b4 : Byte
  b5 : Byte
  b6 : Byte
deriving DecidableEq, Repr

/-- Eight bytes: the arrays `rom[0..7]` and `rx_buf[0..7]` (R24, R29). -/
structure Bytes8 where
  b0 : Byte
  b1 : Byte
  b2 : Byte
  b3 : Byte
  b4 : Byte
  b5 : Byte
  b6 : Byte
  b7 : Byte
deriving DecidableEq, Repr

end Sys2Proof
end

