-- ==== Sys2Proof/Syntax.lean ====
section
/-! DEFINITION. The instructions: one constructor for each row of spec/opcode_table.json
(30_encoding.md tables T-ROMCMD and T-CLIENTOP), and the two forms in which an instruction reaches the
block: a command byte assembled from the wire (R98) or an operation at the client port (R102). -/

namespace Sys2Proof

/-- The instruction set (00_scope.md R1): the six ROM commands, every other command byte, the nine
client operations and the codes that are not operations. -/
inductive Instr where
  /-- SEARCH_ROM, 0xF0 (R211). -/
  | searchRom
  /-- COND_SEARCH, 0xEC (R212). -/
  | condSearch
  /-- READ_ROM, 0x33 (R215). -/
  | readRom
  /-- MATCH_ROM, 0x55 (R213). -/
  | matchRom
  /-- SKIP_ROM, 0xCC (R214). -/
  | skipRom
  /-- RESUME, 0xA5 (R216). -/
  | resume
  /-- UNKNOWN_COMMAND: any of the 250 other command bytes (R100, R217). -/
  | unknownCommand (v : Byte)
  /-- BEGIN, code 0: bytes 0 to 6 of `rom_in`, the eighth byte if one is given, the pin (R251). -/
  | beginOp (rom : Bytes7) (eighth : Option Byte) (pin : Nat)
  /-- END, code 1 (R252). -/
  | endOp
  /-- SET_RECV_CB, code 2: whether a callback is registered (R253). -/
  | setRecvCb (en : Bool)
  /-- SET_BIT_CB, code 3 (R254). -/
  | setBitCb (en : Bool)
  /-- ALARMED, code 4 (R255). -/
  | alarmed (v : Bool)
  /-- WRITE, code 5: a reference into TX (`none` is the null buffer), a length, whether a completion
  callback is given (R256, R103). -/
  | write (buf : Option Nat) (len : Nat) (hasCb : Bool)
  /-- WRITE_BIT, code 6: `again` is the operand the spec calls `repeat` (R257). -/
  | writeBit (value again hasCb : Bool)
  /-- STOP_WRITE, code 7 (R258). -/
  | stopWrite
  /-- CRC8, code 8: a byte sequence; its length is the operand `len` (R261). -/
  | crc8 (bytes : List Byte)
  /-- CLIENT_RESERVED: codes 9 to 15, not operations (R102). -/
  | clientReserved (code : BitVec 4)
deriving DecidableEq, Repr

/-- One request at the client port: the 4-bit operation code and one operand lane for each operand of
table T-CLIENTOP. The source gives the operands no bit positions; the lanes are the model's layout.
DESIGN CHOICE (notes/assumptions/3.md), safe: no rule observes a layout. An operation reads only the
lanes its own row names. -/
structure ClientReq where
  /-- The operation code (R102). -/
  code : BitVec 4
  /-- `rom_in`, bytes 0 to 6 (BEGIN). -/
  rom : Bytes7 := ⟨0, 0, 0, 0, 0, 0, 0⟩
  /-- `rom_in`, byte 7, when eight bytes are given (BEGIN). -/
  eighth : Option Byte := none
  /-- `pin` (BEGIN). -/
  pin : Nat := 0
  /-- `en` (SET_RECV_CB, SET_BIT_CB), `v` (ALARMED), `value` (WRITE_BIT). -/
  flag : Bool := false
  /-- `repeat` (WRITE_BIT). -/
  again : Bool := false
  /-- `has_cb` (WRITE, WRITE_BIT). -/
  hasCb : Bool := false
  /-- `buf` (WRITE): a reference into TX, `none` for null. -/
  buf : Option Nat := some 0
  /-- `len` (WRITE). -/
  len : Nat := 0
  /-- `bytes` (CRC8); `len` of CRC8 is the length of this lane. -/
  bytes : List Byte := []
deriving DecidableEq, Repr

/-- What the decoder reads: a byte of the wire protocol (R98) or a client request (R102). -/
inductive Encoded where
  | command (v : Byte)
  | client (r : ClientReq)
deriving DecidableEq, Repr

end Sys2Proof
end

