-- ==== Sys2Proof/WellFormed.lean ====
section
/-! DEFINITION. Which instructions are well formed: the operand ranges of 30_encoding.md R98, R100 and
R102 that the types of `Instr` do not already say. -/

namespace Sys2Proof

/-- The six values the block decodes (R98). -/
def romCommandBytes : List Byte := [0xF0, 0xEC, 0x33, 0x55, 0xCC, 0xA5]

/-- An unknown command is a byte other than the six (R100); a reserved client code is 9 to 15 (R102).
Every other row is well formed with every operand. -/
def Instr.wf : Instr → Bool
  | .searchRom => true
  | .condSearch => true
  | .readRom => true
  | .matchRom => true
  | .skipRom => true
  | .resume => true
  | .unknownCommand v => !romCommandBytes.contains v
  | .beginOp _ _ _ => true
  | .endOp => true
  | .setRecvCb _ => true
  | .setBitCb _ => true
  | .alarmed _ => true
  | .write _ _ _ => true
  | .writeBit _ _ _ => true
  | .stopWrite => true
  | .crc8 _ => true
  | .clientReserved c => decide (9 ≤ c.toNat)

/-- The instruction is well formed. -/
abbrev Instr.WellFormed (i : Instr) : Prop := i.wf = true

end Sys2Proof
end

