-- ==== Sys2Proof/Decode.lean ====
section
/-! DEFINITION. The decoder and, after it, the encoder (30_encoding.md R98 to R102; 44_protocol_fsm.md
R210). Decoding is total: every command byte and every 4-bit client code is a row of the opcode table,
the ones that are not instructions or operations included, each under its own name. -/

namespace Sys2Proof

/-- A command byte, matched on all eight bits (R98, R210, R100). -/
def decodeCommand (v : Byte) : Instr :=
  if v = 0xF0 then .searchRom
  else if v = 0xEC then .condSearch
  else if v = 0x55 then .matchRom
  else if v = 0xCC then .skipRom
  else if v = 0x33 then .readRom
  else if v = 0xA5 then .resume
  else .unknownCommand v

/-- A client request, by its operation code (R102, table T-CLIENTOP). -/
def decodeClient (r : ClientReq) : Instr :=
  if r.code = 0 then .beginOp r.rom r.eighth r.pin
  else if r.code = 1 then .endOp
  else if r.code = 2 then .setRecvCb r.flag
  else if r.code = 3 then .setBitCb r.flag
  else if r.code = 4 then .alarmed r.flag
  else if r.code = 5 then .write r.buf r.len r.hasCb
  else if r.code = 6 then .writeBit r.flag r.again r.hasCb
  else if r.code = 7 then .stopWrite
  else if r.code = 8 then .crc8 r.bytes
  else .clientReserved r.code

/-- The decoder (R90, R98, R102). -/
def decode : Encoded → Instr
  | .command v => decodeCommand v
  | .client r => decodeClient r

/-- The encoder: the byte of table T-ROMCMD, or the code of table T-CLIENTOP with the operands in their
lanes. -/
def encode : Instr → Encoded
  | .searchRom => .command 0xF0
  | .condSearch => .command 0xEC
  | .readRom => .command 0x33
  | .matchRom => .command 0x55
  | .skipRom => .command 0xCC
  | .resume => .command 0xA5
  | .unknownCommand v => .command v
  | .beginOp rom eighth pin => .client { code := 0, rom := rom, eighth := eighth, pin := pin }
  | .endOp => .client { code := 1 }
  | .setRecvCb en => .client { code := 2, flag := en }
  | .setBitCb en => .client { code := 3, flag := en }
  | .alarmed v => .client { code := 4, flag := v }
  | .write buf len hasCb => .client { code := 5, buf := buf, len := len, hasCb := hasCb }
  | .writeBit value again hasCb => .client { code := 6, flag := value, again := again, hasCb := hasCb }
  | .stopWrite => .client { code := 7 }
  | .crc8 bytes => .client { code := 8, bytes := bytes }
  | .clientReserved c => .client { code := c }

/-- Which encoded form a word of the opcode table stands for. The table numbers ROM command bytes (8
bits) and client codes (4 bits) in one number space, in which 0 to 15 are both; this reading takes a
word below 16 for a client code with every operand lane zero, and any other for a command byte.
DESIGN CHOICE (notes/assumptions/4.md), safe: the machine itself never confuses the two, since bytes
come from the wire and codes from the port. -/
def tableWord (nbits w : Nat) : Option Encoded :=
  if 8 < nbits ∨ 2 ^ nbits ≤ w then none
  else if w < 16 then some (.client { code := BitVec.ofNat 4 w })
  else some (.command (BitVec.ofNat 8 w))

/-- The instruction the decoder reads from a word of spec/opcode_table.json; `none` for a word wider
than eight bits or one that does not fit `nbits`. -/
def decodeTableWord (nbits w : Nat) : Option Instr :=
  (tableWord nbits w).map decode

end Sys2Proof
end

