-- ==== Sys2Proof/Config.lean ====
section
/-! DEFINITION. The implementation parameters of table T-PARAM (00_scope.md R6 to R9) and the one
free value of the model (20_memory.md R78).

The parameters are held by the state (`State.cfg`), where no step changes them, so that a statement
about every state is a statement about every choice of the parameters, as R10 asks. -/

namespace Sys2Proof

/-- The named parameters of table T-PARAM, in microseconds (R6, R7, R8). -/
structure Params where
  /-- `T_RESET_MIN`: the shortest low pulse that is a reset (R6). -/
  tResetMin : Nat
  /-- `T_RESET_MAX`: a longer low pulse is ResetTooLong (R6). -/
  tResetMax : Nat
  /-- `T_PRESENCE_WAIT`: from the release of a reset to the presence pulse (R6). -/
  tPresenceWait : Nat
  /-- `T_PRESENCE`: length of the presence pulse (R6). -/
  tPresence : Nat
  /-- `T_SAMPLE`: from a slot's falling edge to the sample (R7). -/
  tSample : Nat
  /-- `T_SEND0_HOLD`: how long a 0 is held low (R7). -/
  tSend0Hold : Nat
  /-- `T_RESET_CHECK`: from a slot's falling edge to the background reset check (R7). -/
  tResetCheck : Nat
  /-- `TIMER_TICK`: microseconds per timer tick (R8). -/
  timerTick : Nat
  /-- `TIMER_OVERHEAD`: fixed scheduling overhead (R8). -/
  timerOverhead : Nat
deriving DecidableEq, Repr

/-- The default column of table T-PARAM. `tSample`, `tSend0Hold`, `tResetCheck`, `tPresenceWait`,
`timerTick` and `timerOverhead` are OPEN in the spec (92_eei_decisions.md D2, D3, D4).
DESIGN CHOICE (notes/assumptions/1.md), unsafe for a claim that rests on these numbers. -/
def Params.standard : Params where
  tResetMin := 480
  tResetMax := 900
  tPresenceWait := 30
  tPresence := 300
  tSample := 25
  tSend0Hold := 35
  tResetCheck := 430
  timerTick := 1
  timerOverhead := 0

/-- The constraint column of table T-PARAM: the fixed values, the range of `T_SAMPLE`, the place of the
reset check, and a tick of at least one microsecond (R6, R7, R8). -/
abbrev Params.Legal (p : Params) : Prop :=
  p.tResetMin = 480 ∧ p.tResetMax = 900 ∧ p.tPresence = 300 ∧
  25 ≤ p.tSample ∧ p.tSample ≤ 30 ∧
  max p.tSample p.tSend0Hold < p.tResetCheck ∧ p.tResetCheck < p.tResetMin ∧
  1 ≤ p.timerTick

/-- FREE VALUE: whether the timer goes first when its deadline and an input carry the same time stamp.
The source does not say which step comes first and the model must admit every order (R78, R292,
92_eei_decisions.md D18, 93_implementation_defined.md I16). It is read at `State.ties`.
DESIGN CHOICE of form only (notes/assumptions/2.md), safe: nothing can prove a value of it. -/
opaque Config.timerFirst : Nat → Bool

end Sys2Proof
end

