-- ==== Sys2Proof/Machine/State.lean ====
section
/-! DEFINITION. The architectural state (10_state.md table T-STATE), the ports and the environment the
block reads (00_scope.md R12, 20_memory.md R75), and the state after power-on reset
(70_reset_and_hazards.md R321). -/

namespace Sys2Proof.Machine

/-- The protocol state register (R21). -/
inductive Fsm where
  | disabled
  | waitingForReset
  | assertingPresence
  | receivingCommand
  | searchingRom
  | matchingRom
  | receivingApplicationByte
  | sendingBytes
deriving DecidableEq, Repr

/-- The phase of AssertingPresence (R23). -/
inductive ApPhase where
  | wait
  | pulse
deriving DecidableEq, Repr

/-- The slot of a search round (R27). -/
inductive SearchPhase where
  | sendTrue
  | sendComplement
  | recvDirection
deriving DecidableEq, Repr

/-- The one outstanding bit operation (R30). -/
inductive BitOp where
  | idle
  | recvArmed
  | recvSampling
  | send1Armed
  | send0Armed
  | send0Holding
deriving DecidableEq, Repr

/-- The five callbacks the block ever schedules (R33). -/
inductive Callback where
  | beginPresence
  | endPresence
  | sample
  | holdEnd
  | resetCheck
deriving DecidableEq, Repr

/-- The content of an armed timer slot (R33). -/
structure TimerEvent where
  deadline : Nat
  cb : Callback
deriving DecidableEq, Repr

/-- What a client send carries: bytes by reference into TX with their cursors, or one bit (R36). -/
inductive Payload where
  | bytes (buf len byteCur : Nat) (bitCur : BitVec 3)
  | bit (value again : Bool)
deriving DecidableEq, Repr

/-- A PendingSend: its payload and whether `SendDone` is to be notified (R36). -/
structure PendingSend where
  payload : Payload
  hasCb : Bool
deriving DecidableEq, Repr

/-- Whose bytes are being sent while `fsm` is SendingBytes (R37). -/
inductive TxSource where
  | rom
  | client
deriving DecidableEq, Repr

/-- The event of an `Event` notification (R104). -/
inductive EventKind where
  | reset
  | byte
  | error
deriving DecidableEq, Repr

/-- The three faults of the block's own taxonomy (R280). They are handled by the error path
(`raiseError`) and are no outcome of a step. -/
inductive EngineError where
  | resetTooLong
  | unknownCommand
  | bitTransferError
deriving DecidableEq, Repr

/-- The notifications of the client port (R104). -/
inductive Notification where
  | event (e : EventKind) (byte : Byte)
  | bit (b : Bool)
  | sendDone (error : Bool)
  | diag (code : Nat)
deriving DecidableEq, Repr

/-- A notification with the time of the step that emitted it (R15). -/
structure Emission where
  time : Nat
  what : Notification
deriving DecidableEq, Repr

/-- What the client does: it issues an operation (R71), or stores into the buffer it gave to `write`
(R63). -/
inductive ClientAct where
  | operation (req : ClientReq)
  | store (addr : Nat) (v : Byte)
deriving DecidableEq, Repr

/-- What happens at a time of its own: the environment changes the level it gives the line (R75), or the
client acts from its main program (R71). -/
inductive Input where
  | ext (level : Bool)
  | client (act : ClientAct)
deriving DecidableEq, Repr

/-- An input with the time at which it occurs (R13). -/
structure TimedInput where
  time : Nat
  what : Input
deriving DecidableEq, Repr

/-- What a notification's handler does: `act`, issued in reaction to notification number `answers` of
`State.out`, counted from 0. It has no time of its own: it directly follows the step that emitted that
notification (R71). -/
structure Reaction where
  answers : Nat
  act : ClientAct
deriving DecidableEq, Repr

/-- The byte spaces of the block (R60); the fourth space, LINE, is one bit (`State.line`). -/
inductive Space where
  | rom
  | rxbuf
  | tx
deriving DecidableEq, Repr

/-- The client's memory, which TX buffers are references into: the listed cells in strictly rising
address order, none of them zero; an unlisted address reads as zero (`Memory.read`). -/
abbrev Memory := List Host.Cell

/-- The block: table T-STATE, field by field, and nothing else (R20). -/
structure Block where
  /-- 1 after `begin`, 0 after `end` and power-on (R22). -/
  enabled : Bool
  /-- The protocol state register (R21). -/
  fsm : Fsm
  /-- Wait or Pulse, while asserting presence (R23). -/
  apPhase : ApPhase
  /-- The SlaveIdentity: family code, serial, CRC (R24). -/
  rom : Bytes8
  /-- The alarm flag (R25). -/
  alarmed : Bool
  /-- Whether RESUME is permitted (R26). -/
  resumeAllowed : Bool
  /-- The slot of the search round (R27). -/
  searchPhase : SearchPhase
  /-- The search round, 0 to 63 (R28). -/
  searchIdx : BitVec 6
  /-- The bit accumulator (R29). -/
  rxAcc : Byte
  /-- Bits received of the current byte, 0 to 7 (R29). -/
  rxBit : BitVec 3
  /-- Complete bytes received, 0 to `rxLen` (R29). -/
  rxByte : BitVec 4
  /-- Bytes to receive, 1 or 8 (R29). -/
  rxLen : BitVec 4
  /-- The destination buffer of Match ROM (R29, R62). -/
  rxBuf : Bytes8
  /-- The outstanding bit operation (R30). -/
  op : BitOp
  /-- The bit of the armed or in-flight send (R31). -/
  curBit : Option Bool
  /-- The operation in flight belongs to a cancelled owner (R32). -/
  stale : Bool
  /-- The timer slot; `none` is disarmed (R33). -/
  timer : Option TimerEvent
  /-- The open-drain output register (R34). -/
  driveLow : Bool
  /-- When the line was seen to fall, if it has not been seen to rise since (R35). -/
  lowStart : Option Nat
  /-- The armed client send (R36). -/
  ps : Option PendingSend
  /-- Whose bytes are being sent (R37). -/
  txSrc : Option TxSource
  /-- ROM bits sent by Read ROM, 0 to 64 (R37). -/
  txCur : BitVec 7
  /-- The receive callback is registered (R38). -/
  recvCbEn : Bool
  /-- The per-bit callback is registered (R38). -/
  bitCbEn : Bool
deriving DecidableEq, Repr

/-- What stands around the block: its parameters, its ports (R12) and the environment it reads. -/
structure Env where
  /-- The parameters (T-PARAM); no step changes them. -/
  cfg : Params
  /-- The input port `now` (R12): the time of the last step. -/
  now : Nat
  /-- The level the line would have if the block released it (R75). -/
  ext : Bool
  /-- The level of the line at the last edge that was delivered. The MODEL's own field: an edge is due
  exactly when it differs from the line (R76, R77). -/
  lineSeen : Bool
  /-- The client's memory, read through the TX read port (R63). -/
  tx : Memory
  /-- The inputs to come, in the order in which they occur. The MODEL's own field (R115). -/
  inputs : List TimedInput
  /-- What the handlers of the notifications to come do, in the order in which they do it. The MODEL's own
  field (R71). -/
  reactions : List Reaction
  /-- The notifications emitted so far, oldest first (R15, R104). -/
  out : List Emission
  /-- The result port of the client operations: the last value `crc8` returned (R250, R261). -/
  result : Option Byte
  /-- How many ties between the timer and an input have been settled. The MODEL's own field, at which
  `Config.timerFirst` is read (R78). -/
  ties : Nat
deriving DecidableEq, Repr

/-- The machine: the block and what stands around it. -/
structure State extends Block, Env
deriving DecidableEq, Repr

/-- Why a step stops without a next state. Each is raised only in a state that the invariant of the
spec excludes (10_state.md R41, `Sys2Proof.Machine.Inv`), where the spec's rules name no effect. -/
inductive Fault where
  /-- A byte that its space does not have (R60): raised by the Read ROM progress, the Match ROM store
  and the TX read port. Safe: the machine stops where the spec has no byte. -/
  | noSuchByte (space : Space) (index : Nat)
  /-- The bit of a client send is wanted and none is armed; `PsBit` requires `ps != none` (R185).
  Raised by the byte layer. Safe. -/
  | noPendingSend
  /-- A send completed that no rule armed: "No other case exists" (R189). Raised by the byte layer.
  Safe. -/
  | noSendOwner
  /-- A byte completed in a state in which no receive is armed (R183, R190). Raised by the byte layer.
  Safe. -/
  | noReceiveOwner
deriving DecidableEq, Repr

/-- Why an instruction has no meaning. -/
inductive Refusal where
  /-- The instruction is not modelled. Raised by `exec` alone, and by no arm of it now. Safe. -/
  | notModelled (mnemonic : String)
deriving DecidableEq, Repr

/-- The block after power-on reset (R321). `rom` and `rxBuf` are unspecified there; the model gives them
zeros: DESIGN CHOICE (notes/assumptions/5.md), unsafe for a claim that rests on those zeros. -/
def Block.reset : Block where
  enabled := false
  fsm := .disabled
  apPhase := .wait
  rom := ⟨0, 0, 0, 0, 0, 0, 0, 0⟩
  alarmed := false
  resumeAllowed := false
  searchPhase := .sendTrue
  searchIdx := 0
  rxAcc := 0
  rxBit := 0
  rxByte := 0
  rxLen := 1
  rxBuf := ⟨0, 0, 0, 0, 0, 0, 0, 0⟩
  op := .idle
  curBit := none
  stale := false
  timer := none
  driveLow := false
  lowStart := none
  ps := none
  txSrc := none
  txCur := 0
  recvCbEn := false
  bitCbEn := false

/-- The machine after power-on reset (R321): the block as above, time 0, the line high and seen high,
the parameters at their defaults, nothing in memory, no input or reaction to come and nothing emitted. The values
outside the block are the model's. DESIGN CHOICE (notes/assumptions/6.md), unsafe. -/
def State.reset : State :=
  { Block.reset with
    cfg := Params.standard
    now := 0
    ext := true
    lineSeen := true
    tx := []
    inputs := []
    reactions := []
    out := []
    result := none
    ties := 0 }

end Sys2Proof.Machine
end

