-- ==== Sys2Proof/Machine/Codes.lean ====
section
/-! DEFINITION. The numeric codes the spec gives its enumerations (10_state.md R21, R23, R27, R30, R33;
30_encoding.md R104; 60_exceptions.md R281). No port exposes them but the `Diag` code. -/

namespace Sys2Proof.Machine

/-- Codes of the protocol state register (R21). -/
def Fsm.code : Fsm → BitVec 3
  | .disabled => 0
  | .waitingForReset => 1
  | .assertingPresence => 2
  | .receivingCommand => 3
  | .searchingRom => 4
  | .matchingRom => 5
  | .receivingApplicationByte => 6
  | .sendingBytes => 7

/-- Wait is 0, Pulse is 1 (R23). -/
def ApPhase.code : ApPhase → BitVec 1
  | .wait => 0
  | .pulse => 1

/-- SendTrue, SendComplement, RecvDirection are 0, 1, 2 (R27). -/
def SearchPhase.code : SearchPhase → BitVec 2
  | .sendTrue => 0
  | .sendComplement => 1
  | .recvDirection => 2

/-- Codes of the bit operation (R30). -/
def BitOp.code : BitOp → BitVec 3
  | .idle => 0
  | .recvArmed => 1
  | .recvSampling => 2
  | .send1Armed => 3
  | .send0Armed => 4
  | .send0Holding => 5

/-- Codes of the timer callbacks (R33). -/
def Callback.code : Callback → BitVec 3
  | .beginPresence => 0
  | .endPresence => 1
  | .sample => 2
  | .holdEnd => 3
  | .resetCheck => 4

/-- Codes of the events: Reset 0, Byte 1, Error 2 (R104). -/
def EventKind.code : EventKind → BitVec 2
  | .reset => 0
  | .byte => 1
  | .error => 2

/-- The operand of `Diag` (R281). -/
def EngineError.code : EngineError → Nat
  | .resetTooLong => 1
  | .unknownCommand => 2
  | .bitTransferError => 3

/-- The bit operation is in flight: between its falling edge and its completion (R30). -/
def BitOp.inFlight : BitOp → Bool
  | .recvSampling => true
  | .send0Holding => true
  | .idle => false
  | .recvArmed => false
  | .send1Armed => false
  | .send0Armed => false

end Sys2Proof.Machine
end

