-- ==== Sys2Proof/Machine/Flags.lean ====
section
/-! DEFINITION. The flags and the control bits (10_state.md R25, R26, R27, R38; R39 B3, B4). No
operation sets a flag as a side effect of arithmetic; these are all the writers. -/

namespace Sys2Proof.Machine

/-- `alarmed <- v` (R25, R255). -/
def setAlarmed (v : Bool) (s : State) : State := { s with alarmed := v }

/-- `resume_allowed <- v` (R26, R221). -/
def setResumeAllowed (v : Bool) (s : State) : State := { s with resumeAllowed := v }

/-- `search_phase <- p` (R27). -/
def setSearchPhase (p : SearchPhase) (s : State) : State := { s with searchPhase := p }

/-- `recv_cb_en <- en` (R38, R253). -/
def setRecvEnable (en : Bool) (s : State) : State := { s with recvCbEn := en }

/-- `bit_cb_en <- en` (R38, R254). -/
def setBitEnable (en : Bool) (s : State) : State := { s with bitCbEn := en }

/-- The source's flag `searchInverse`: the complement bit is being sent (R27). -/
def State.searchInverse (s : State) : Bool := s.searchPhase == .sendComplement

end Sys2Proof.Machine
end

