-- ==== Sys2Proof/Machine/Crc8.lean ====
section
/-! DEFINITION. The CRC8 checksum generator (40_crc8.md R120, R121). -/

namespace Sys2Proof.Machine

/-- One iteration of the inner loop: the low bit of `crc` against the low bit of the input, the register
shifted right, the feedback constant 0x8C applied if they differed (R121). -/
def crcStep (crc inb : Byte) : Byte :=
  if (crc ^^^ inb).getLsbD 0 then (crc >>> 1) ^^^ 0x8C else crc >>> 1

/-- `k` iterations, the input shifted right after each (R121). -/
def crcIter : Nat → Byte → Byte → Byte
  | 0, crc, _ => crc
  | k + 1, crc, inb => crcIter k (crcStep crc inb) (inb >>> 1)

/-- One input byte: eight iterations, bit 0 first (R121). -/
def crcByte (crc inb : Byte) : Byte := crcIter 8 crc inb

/-- The checksum of a byte sequence, from the initial value 0 (R120, R121). -/
def crc8 (bytes : List Byte) : Byte := bytes.foldl crcByte 0

/-- The checksum of the seven bytes `rom[0..6]` (R123). -/
def crcOfSerial (r : Bytes7) : Byte := crc8 [r.b0, r.b1, r.b2, r.b3, r.b4, r.b5, r.b6]

end Sys2Proof.Machine
end

