-- ==== Sys2Proof/Machine/Memory.lean ====
section
/-! DEFINITION. The byte spaces (20_memory.md R60 to R63): the arrays ROM and RXBUF, and the client's
memory that the TX read port reads. -/

namespace Sys2Proof.Machine

/-- Byte `i` of an array register, for every 3-bit index (R60). -/
def byteAt (a : Bytes8) (i : BitVec 3) : Byte :=
  match i.toNat with
  | 0 => a.b0
  | 1 => a.b1
  | 2 => a.b2
  | 3 => a.b3
  | 4 => a.b4
  | 5 => a.b5
  | 6 => a.b6
  | _ => a.b7

/-- The array with byte `i` replaced (R62). -/
def setByteAt (a : Bytes8) (i : BitVec 3) (v : Byte) : Bytes8 :=
  match i.toNat with
  | 0 => { a with b0 := v }
  | 1 => { a with b1 := v }
  | 2 => { a with b2 := v }
  | 3 => { a with b3 := v }
  | 4 => { a with b4 := v }
  | 5 => { a with b5 := v }
  | 6 => { a with b6 := v }
  | _ => { a with b7 := v }

/-- What an address of the client's memory that nothing has written reads as. DESIGN CHOICE
(notes/assumptions/7.md), unsafe: the spec gives client memory no contents. -/
def Memory.unlisted : Byte := 0

/-- One byte of the client's memory. -/
def Memory.read : Memory → Nat → Byte
  | [], _ => Memory.unlisted
  | (a, v) :: rest, addr => if a = addr then v else Memory.read rest addr

/-- A store by the client, which keeps the canonical form: the cell goes to its place in address order,
and a byte equal to what an unlisted address reads as removes the cell. -/
def Memory.write : Memory → Nat → Byte → Memory
  | [], addr, v => if v = Memory.unlisted then [] else [(addr, v)]
  | (a, w) :: rest, addr, v =>
    if addr < a then
      if v = Memory.unlisted then (a, w) :: rest else (addr, v) :: (a, w) :: rest
    else if addr = a then
      if v = Memory.unlisted then rest else (addr, v) :: rest
    else (a, w) :: Memory.write rest addr v

/-- Every cell of `m` lies above `lo`, in strictly rising order, and none is unlisted's value. -/
def Memory.wfAbove : Option Nat → Memory → Bool
  | _, [] => true
  | lo, (a, v) :: rest =>
    (match lo with
      | none => true
      | some l => decide (l < a)) &&
    decide (v ≠ Memory.unlisted) && Memory.wfAbove (some a) rest

/-- The canonical form: addresses strictly rising, no cell equal to what an unlisted address reads as. -/
def Memory.wf (m : Memory) : Bool := Memory.wfAbove none m

/-- `MemRead(space, index, 1)` (R17, R60): a byte of ROM or RXBUF, or of the TX buffer that starts at
`base` and has `len` bytes; `none` where the space has no such byte. -/
def memRead (space : Space) (base len index : Nat) (s : State) : Option Byte :=
  match space with
  | .rom => if index < 8 then some (byteAt s.rom (BitVec.ofNat 3 index)) else none
  | .rxbuf => if index < 8 then some (byteAt s.rxBuf (BitVec.ofNat 3 index)) else none
  | .tx => if index < len then some (Memory.read s.tx (base + index)) else none

end Sys2Proof.Machine
end

