-- ==== Sys2Proof/Machine/Operands.lean ====
section
/-! DEFINITION. Operand forms: the bits and bytes an instruction or a bit operation works on
(20_memory.md R61, R64; 43_byte_layer.md R182, R185; 45_client_port.md R251, R256). -/

namespace Sys2Proof.Machine

/-- `rom_bit(n) = rom[n >> 3][n & 7]` (R61). -/
def romBit (n : BitVec 6) (s : State) : Bool :=
  (byteAt s.rom (n.extractLsb' 3 3)).getLsbD (n.extractLsb' 0 3).toNat

/-- The bits of a byte in the order of their time slots: bit 0 first (R64, R96). -/
def wireBits (v : Byte) : List Bool :=
  [v.getLsbD 0, v.getLsbD 1, v.getLsbD 2, v.getLsbD 3,
   v.getLsbD 4, v.getLsbD 5, v.getLsbD 6, v.getLsbD 7]

/-- One received bit added to the accumulator: `rx_acc | (b << rx_bit)` (R182). -/
def addBit (acc : Byte) (b : Bool) (n : BitVec 3) : Byte :=
  acc ||| ((BitVec.ofBool b).setWidth 8 <<< n.toNat)

/-- The byte whose bits arrive in this order, the first being bit 0: `sum of (b_i << i)` (R96). -/
def byteOfBits : List Bool → Byte
  | [] => 0
  | b :: rest => (byteOfBits rest <<< 1) ||| (BitVec.ofBool b).setWidth 8

/-- `PsBit()` (R185): the bit of the armed client send that goes in the next slot; `none` where the TX
buffer has no such byte. The TX byte is read here, once per bit (R63). -/
def psBit (p : PendingSend) (s : State) : Option Bool :=
  match p.payload with
  | .bit value _ => some value
  | .bytes buf len byteCur bitCur =>
    (memRead .tx buf len byteCur s).map (fun v => v.getLsbD bitCur.toNat)

/-- The index of the TX byte that `psBit` reads. -/
def psByteIndex (p : PendingSend) : Nat :=
  match p.payload with
  | .bit _ _ => 0
  | .bytes _ _ byteCur _ => byteCur

/-- The identity that `begin` makes of its operand: bytes 0 to 6 as given, byte 7 their checksum (R251,
R123). An eighth byte given with them takes no part (R251). -/
def identityOf (r : Bytes7) : Bytes8 :=
  { b0 := r.b0, b1 := r.b1, b2 := r.b2, b3 := r.b3, b4 := r.b4, b5 := r.b5, b6 := r.b6,
    b7 := crcOfSerial r }

/-- The send that `write` queues: `none`, the empty send, if the length is 0 or the buffer null (R256,
R103). -/
def bytesSend (buf : Option Nat) (len : Nat) (hasCb : Bool) : Option PendingSend :=
  match buf with
  | none => none
  | some b => if len = 0 then none else some { payload := .bytes b len 0 0, hasCb := hasCb }

/-- The send that `writeBit` queues (R257). -/
def bitSend (value again hasCb : Bool) : PendingSend :=
  { payload := .bit value again, hasCb := hasCb }

end Sys2Proof.Machine
end

