-- ==== Sys2Proof/Machine/Ops.lean ====
section
/-! DEFINITION. The shared operations: the line, the notifications, the timer, arming a bit operation,
starting a receive, leaving a transaction, and TAKING AN EXCEPTION (`raiseError`, the block's one error
path, 60_exceptions.md R285). The block has no return-from-exception operation: nothing is saved, and
recovery is the next bus reset (R285, R288).

Each operation that always succeeds is one record update, so that what it changes is read off it. -/

namespace Sys2Proof.Machine

/-- The level of the line: high when neither the environment nor the block pulls it low (R75, R79). -/
def State.line (s : State) : Bool := s.ext && !s.driveLow

/-! ### Notifications (45_client_port.md R262 to R265) -/

/-- Emit a notification at the time of the step, if `c` holds. -/
def emitIf (c : Bool) (n : Notification) (s : State) : State :=
  { s with out := if c then s.out ++ [⟨s.now, n⟩] else s.out }

/-- `notify Event(e, byte)`, if the receive callback is registered (R262). -/
def notifyEvent (e : EventKind) (byte : Byte) (s : State) : State := emitIf s.recvCbEn (.event e byte) s

/-- `notify Bit(b)`, if the per-bit callback is registered (R263). -/
def notifyBit (b : Bool) (s : State) : State := emitIf s.bitCbEn (.bit b) s

/-- `notify SendDone(error)`, for a send that has a completion callback (R264). -/
def notifySendDone (hasCb error : Bool) (s : State) : State := emitIf hasCb (.sendDone error) s

/-- `notify Diag(code)`, not gated by any enable (R265). -/
def notifyDiag (e : EngineError) (s : State) : State := emitIf true (.diag e.code) s

/-! ### The deferred callback timer (41_timer.md) -/

/-- `EffectiveDelay(delay)`: overhead subtracted, whole ticks, at least one tick (R133). -/
def effectiveDelay (p : Params) (delay : Nat) : Nat :=
  p.timerOverhead + max 1 ((delay - p.timerOverhead) / p.timerTick) * p.timerTick

/-- `TimerSchedule(delay, cb)`: replaces whatever the slot held (R131). -/
def timerSchedule (delay : Nat) (cb : Callback) (s : State) : State :=
  { s with timer := some ⟨s.now + effectiveDelay s.cfg delay, cb⟩ }

/-- `TimerCancel()` (R132). -/
def timerCancel (s : State) : State := { s with timer := none }

/-- The slot without a pending ResetCheck, which a rising edge cancels (R153). -/
def withoutResetCheck (t : Option TimerEvent) : Option TimerEvent :=
  match t with
  | none => none
  | some e => if e.cb = .resetCheck then none else some e

/-- The slot without a pending Sample or HoldEnd, which leaving a transaction cancels (R207). -/
def withoutSlotCallback (t : Option TimerEvent) : Option TimerEvent :=
  match t with
  | none => none
  | some e => if e.cb = .sample ∨ e.cb = .holdEnd then none else some e

/-! ### Arming (42_bit_transceiver.md R146, R147, R156; 43_byte_layer.md R181) -/

/-- `ArmRecv()` (R146). -/
def armRecv (s : State) : State := { s with op := .recvArmed, curBit := none }

/-- `ArmSend(b)` (R147). -/
def armSend (b : Bool) (s : State) : State :=
  { s with curBit := some b, op := if b then .send1Armed else .send0Armed }

/-- `StartReceive(n)` (R181); `rx_buf` is not cleared. -/
def startReceive (n : BitVec 4) (s : State) : State :=
  armRecv { s with rxLen := n, rxByte := 0, rxBit := 0, rxAcc := 0 }

/-- `ScheduleResetCheck()`: the check is due `T_RESET_CHECK` after the latest falling edge, and only if
the line has not risen since (R156). -/
def scheduleResetCheck (s : State) : State :=
  match s.lowStart with
  | none => s
  | some t0 => timerSchedule (t0 + s.cfg.tResetCheck - s.now) .resetCheck s

/-- `ArmSend(PsBit())` (R185): stops where no send is armed or its buffer has no such byte. -/
def armPsBit (s : State) : Host.Outcome State Fault Refusal :=
  match s.ps with
  | none => .fault .noPendingSend
  | some p =>
    match psBit p s with
    | none => .fault (.noSuchByte .tx (psByteIndex p))
    | some b => .next (armSend b s)

/-! ### The protocol's entries and exits (44_protocol_fsm.md R207, R226, R230) -/

/-- Whether the armed client send has a completion callback. -/
def pendingHasCb (s : State) : Bool :=
  match s.ps with
  | none => false
  | some p => p.hasCb

/-- Cancel the armed client send and fail it: `SendDone(error = 1)` if it has a callback (R207, R256,
R285). -/
def failPending (s : State) : State :=
  { notifySendDone (pendingHasCb s) true s with ps := none }

/-- `EnterWFR()`: the one way into WaitingForReset from a running transaction (R207). -/
def enterWFR (s : State) : State :=
  { failPending s with
    fsm := .waitingForReset
    op := .idle
    curBit := none
    stale := false
    driveLow := false
    txSrc := none
    timer := withoutSlotCallback s.timer }

/-- `EnterAppLoop()` (R230). -/
def enterAppLoop (s : State) : State :=
  startReceive 1 { s with fsm := .receivingApplicationByte, txSrc := none }

/-- `StartSearch()` (R226). -/
def startSearch (s : State) : State :=
  armSend (romBit 0 s) { s with fsm := .searchingRom, searchIdx := 0, searchPhase := .sendTrue }

/-- `raise E`: the error path, in its four steps: the diagnostic, the armed send failed, `Event(Error, 0)`,
and back to WaitingForReset (R285). -/
def raiseError (e : EngineError) (s : State) : State :=
  enterWFR (notifyEvent .error 0 (failPending (notifyDiag e s)))

/-! ### The client port's shared operations (45_client_port.md R252, R256 to R260) -/

/-- The tear-down of `end` (R252). -/
def tearDown (s : State) : State :=
  { s with
    enabled := false
    fsm := .disabled
    timer := none
    driveLow := false
    ps := none
    op := .idle
    curBit := none
    stale := false
    txSrc := none
    lowStart := none }

/-- The set-up of `begin`, after the `end` it performs when the block is enabled (R251). -/
def setUp (rom : Bytes7) (s : State) : State :=
  { s with
    rom := identityOf rom
    alarmed := false
    resumeAllowed := false
    searchPhase := .sendTrue
    searchIdx := 0
    ps := none
    stale := false
    driveLow := false
    timer := none
    lowStart := none
    op := .idle
    curBit := none
    txSrc := none
    fsm := .waitingForReset
    enabled := true }

/-- The block is in the application byte loop (R230, R256). -/
def inAppLoop (s : State) : Bool :=
  s.fsm == .receivingApplicationByte || (s.fsm == .sendingBytes && s.txSrc == some .client)

/-- The empty send, once a pending send has been failed: a client send gives way to reception, at bit 0
of a fresh byte (R258). -/
def emptySend (s : State) : State :=
  if s.fsm = .sendingBytes then
    let u := { s with
      fsm := .receivingApplicationByte, txSrc := none, rxLen := 1, rxByte := 0, rxBit := 0, rxAcc := 0 }
    match s.op with
    | .send1Armed => armRecv u
    | .send0Armed => armRecv u
    | .send0Holding => { u with stale := true }
    | .idle => u
    | .recvArmed => u
    | .recvSampling => u
  else s

/-- Arm a new send, once the previous one has been failed: it takes the next slot, or the one after an
operation in flight, whose result is dropped (R256). -/
def armNewSend (p : PendingSend) (s : State) : Host.Outcome State Fault Refusal :=
  let partByte := s.fsm == .receivingApplicationByte
  let u := { s with
    ps := some p
    rxAcc := if partByte then 0 else s.rxAcc
    rxBit := if partByte then 0 else s.rxBit
    fsm := .sendingBytes
    txSrc := some .client }
  match s.op with
  | .recvArmed => armPsBit u
  | .send1Armed => armPsBit u
  | .send0Armed => armPsBit u
  | .recvSampling => .next { u with stale := true }
  | .send0Holding => .next { u with stale := true }
  | .idle => .next { u with stale := true }

/-- `QueueSend(new)` (R256), with its refusals (R259, R260): nothing at all while disabled; outside the
application byte loop a request with a callback is answered `SendDone(error = 1)`. -/
def queueSend (new : Option PendingSend) (s : State) : Host.Outcome State Fault Refusal :=
  if s.enabled = false then .next s
  else if inAppLoop s = false then
    match new with
    | none => .next s
    | some p => .next (notifySendDone p.hasCb true s)
  else
    match new with
    | none => .next (emptySend (failPending s))
    | some p => armNewSend p (failPending s)

end Sys2Proof.Machine
end

