-- ==== Sys2Proof/Machine/ClientPort.lean ====
section
/-! DEFINITION. The operations of the client port (45_client_port.md R250 to R261). -/

namespace Sys2Proof.Machine

/-- BEGIN: `end` first if enabled, then the identity, the flags and the protocol state are established
and the block is enabled; the eighth byte and the pin are not used (R251). -/
def execBegin (rom : Bytes7) (_eighth : Option Byte) (_pin : Nat) (s : State) :
    Host.Outcome State Fault Refusal :=
  .next (setUp rom (if s.enabled then tearDown s else s))

/-- END: disabled, line released, timer disarmed, an armed send dropped silently; nothing changes while
disabled (R252). -/
def execEnd (s : State) : Host.Outcome State Fault Refusal :=
  .next (if s.enabled then tearDown s else s)

/-- SET_RECV_CB, in any state (R253). -/
def execSetRecvCb (en : Bool) (s : State) : Host.Outcome State Fault Refusal :=
  .next (setRecvEnable en s)

/-- SET_BIT_CB, in any state (R254). -/
def execSetBitCb (en : Bool) (s : State) : Host.Outcome State Fault Refusal :=
  .next (setBitEnable en s)

/-- ALARMED, in any state (R255). -/
def execAlarmed (v : Bool) (s : State) : Host.Outcome State Fault Refusal :=
  .next (setAlarmed v s)

/-- WRITE: queues the bytes, or the empty send for length 0 or a null buffer (R256). -/
def execWrite (buf : Option Nat) (len : Nat) (hasCb : Bool) (s : State) :
    Host.Outcome State Fault Refusal :=
  queueSend (bytesSend buf len hasCb) s

/-- WRITE_BIT: queues one bit, once or for every slot until stopped (R257). -/
def execWriteBit (value again hasCb : Bool) (s : State) : Host.Outcome State Fault Refusal :=
  queueSend (some (bitSend value again hasCb)) s

/-- STOP_WRITE: the empty send (R258). -/
def execStopWrite (s : State) : Host.Outcome State Fault Refusal :=
  queueSend none s

/-- CRC8: the checksum goes to the result port; no state of the block is read or written (R261). -/
def execCrc8 (bytes : List Byte) (s : State) : Host.Outcome State Fault Refusal :=
  .next { s with result := some (crc8 bytes) }

/-- CLIENT_RESERVED: refused, which 93_implementation_defined.md I12 defines as no state change and the
operation not performed; no notification (R102). DEDUCED (notes/assumptions/8.md), safe. -/
def execClientReserved (_code : BitVec 4) (s : State) : Host.Outcome State Fault Refusal :=
  .next s

end Sys2Proof.Machine
end

