-- ==== Sys2Proof/Machine/Commands.lean ====
section
/-! DEFINITION. The ROM commands: what the dispatch of a command byte does, inside the step of the eighth
Sample of that byte (44_protocol_fsm.md R210 to R218). The slots that follow a command on the wire
are the steps of Machine/Protocol.lean. -/

namespace Sys2Proof.Machine

/-- SEARCH_ROM: searches, whatever `alarmed` is (R211). -/
def execSearchRom (s : State) : Host.Outcome State Fault Refusal :=
  .next (startSearch s)

/-- COND_SEARCH: searches if `alarmed` is 1, else leaves the transaction silently (R212). -/
def execCondSearch (s : State) : Host.Outcome State Fault Refusal :=
  .next (if s.alarmed then startSearch s else enterWFR s)

/-- READ_ROM: begins to send the 64 ROM bits (R215). -/
def execReadRom (s : State) : Host.Outcome State Fault Refusal :=
  .next (armSend (romBit 0 s) { s with fsm := .sendingBytes, txSrc := some .rom, txCur := 0 })

/-- MATCH_ROM: begins to receive eight bytes (R213). -/
def execMatchRom (s : State) : Host.Outcome State Fault Refusal :=
  .next (startReceive 8 { s with fsm := .matchingRom })

/-- SKIP_ROM: enters the application byte loop (R214). -/
def execSkipRom (s : State) : Host.Outcome State Fault Refusal :=
  .next (enterAppLoop s)

/-- RESUME: enters the application byte loop if `resume_allowed` is 1, else leaves the transaction
silently (R216). -/
def execResume (s : State) : Host.Outcome State Fault Refusal :=
  .next (if s.resumeAllowed then enterAppLoop s else enterWFR s)

/-- Any other command byte TAKES the fault UnknownCommand, through the error path (R217, R283). -/
def execUnknownCommand (_v : Byte) (s : State) : Host.Outcome State Fault Refusal :=
  .next (raiseError .unknownCommand s)

end Sys2Proof.Machine
end

