-- ==== Sys2Proof/Machine/Dispatch.lean ====
section
/-! DEFINITION. What each instruction does: one arm for each row of spec/opcode_table.json. -/

namespace Sys2Proof.Machine

def exec (i : Instr) (s : State) : Host.Outcome State Fault Refusal :=
  match i with
  | .searchRom => Sys2Proof.Machine.execSearchRom s
  | .condSearch => Sys2Proof.Machine.execCondSearch s
  | .readRom => Sys2Proof.Machine.execReadRom s
  | .matchRom => Sys2Proof.Machine.execMatchRom s
  | .skipRom => Sys2Proof.Machine.execSkipRom s
  | .resume => Sys2Proof.Machine.execResume s
  | .unknownCommand v => Sys2Proof.Machine.execUnknownCommand v s
  | .beginOp rom eighth pin => Sys2Proof.Machine.execBegin rom eighth pin s
  | .endOp => Sys2Proof.Machine.execEnd s
  | .setRecvCb en => Sys2Proof.Machine.execSetRecvCb en s
  | .setBitCb en => Sys2Proof.Machine.execSetBitCb en s
  | .alarmed v => Sys2Proof.Machine.execAlarmed v s
  | .write buf len hasCb => Sys2Proof.Machine.execWrite buf len hasCb s
  | .writeBit value again hasCb => Sys2Proof.Machine.execWriteBit value again hasCb s
  | .stopWrite => Sys2Proof.Machine.execStopWrite s
  | .crc8 bytes => Sys2Proof.Machine.execCrc8 bytes s
  | .clientReserved code => Sys2Proof.Machine.execClientReserved code s

end Sys2Proof.Machine
end

