-- ==== Sys2Proof/Machine/Protocol.lean ====
section
/-! DEFINITION. The protocol state machine's own steps: reset detection and the presence pulse
(44_protocol_fsm.md R201 to R206), the progress of Read ROM, Match ROM and Search ROM (R220 to R228),
and the dispatch of a received command byte (R210). -/

namespace Sys2Proof.Machine

/-- A reset is accepted (R204). -/
def resetAccepted (s : State) : State :=
  notifyEvent .reset 0
    (timerSchedule s.cfg.tPresenceWait .beginPresence
      { s with fsm := .assertingPresence, apPhase := .wait, op := .idle })

/-- A low pulse of `d` microseconds has ended in WaitingForReset (R202, R203, R204). -/
def classifyPulse (d : Nat) (s : State) : State :=
  if d < s.cfg.tResetMin then s
  else if s.cfg.tResetMax < d then raiseError .resetTooLong s
  else resetAccepted s

/-- The `BeginPresence` callback (R205). -/
def beginPresence (s : State) : State :=
  timerSchedule s.cfg.tPresence .endPresence { s with driveLow := true, apPhase := .pulse }

/-- The `EndPresence` callback (R206). -/
def endPresence (s : State) : State :=
  startReceive 1 { s with driveLow := false, lowStart := none, fsm := .receivingCommand }

/-- `Dispatch(v)`: decode the command byte and execute it, in the same step (R210, R218). -/
def dispatchCommand (v : Byte) (s : State) : Host.Outcome State Fault Refusal :=
  exec (decode (.command v)) s

/-- The match compare: all eight bytes as raw bytes (R221). -/
def matchCompare (s : State) : State :=
  if s.rxBuf = s.rom then enterAppLoop (setResumeAllowed true s)
  else enterWFR (setResumeAllowed false s)

/-- A byte of Match ROM is complete: stored, and after the eighth the compare (R183, R220). -/
def matchByte (v : Byte) (s : State) : Host.Outcome State Fault Refusal :=
  if s.rxByte.toNat < 8 then
    let u := { s with
      rxBuf := setByteAt s.rxBuf (s.rxByte.setWidth 3) v
      rxByte := s.rxByte + 1 }
    if s.rxByte.toNat + 1 < 8 then .next (armRecv u) else .next (matchCompare u)
  else .fault (.noSuchByte .rxbuf s.rxByte.toNat)

/-- A bit of Read ROM has gone out (R223). -/
def readRomProgress (s : State) : Host.Outcome State Fault Refusal :=
  let u := { s with txCur := s.txCur + 1 }
  if u.txCur = 64 then .next (enterAppLoop u)
  else if u.txCur.toNat < 64 then .next (armSend (romBit (u.txCur.setWidth 6) u) u)
  else .fault (.noSuchByte .rom (u.txCur.toNat / 8))

/-- A send of a search round has completed (R227). -/
def searchSendDone (s : State) : State :=
  match s.searchPhase with
  | .sendTrue => armSend (!romBit s.searchIdx s) (setSearchPhase .sendComplement s)
  | .sendComplement => armRecv (setSearchPhase .recvDirection s)
  | .recvDirection => armRecv (setSearchPhase .recvDirection s)

/-- The master's direction bit of a search round was received (R228). -/
def searchRecvDone (b : Bool) (s : State) : State :=
  if b ≠ romBit s.searchIdx s then enterWFR s
  else if s.searchIdx = 63 then enterWFR { s with searchIdx := 0 }
  else
    armSend (romBit (s.searchIdx + 1) s)
      (setSearchPhase .sendTrue { s with searchIdx := s.searchIdx + 1 })

end Sys2Proof.Machine
end

