-- ==== Sys2Proof/Machine/ByteLayer.lean ====
section
/-! DEFINITION. The byte transfer layer: what follows the completion of each bit (43_byte_layer.md R182
to R190). -/

namespace Sys2Proof.Machine

/-- `ArmNext()`: the operation that the new situation calls for, after a dropped one (R188). -/
def armNext (s : State) : Host.Outcome State Fault Refusal :=
  if s.fsm = .sendingBytes ∧ s.txSrc = some .client then armPsBit s else .next (armRecv s)

/-- Send completion: `SendDone(error = 0)` and back to the application byte loop (R187). -/
def sendComplete (s : State) : State :=
  enterAppLoop (notifySendDone (pendingHasCb s) false { s with ps := none })

/-- Client send progress: one bit of the armed send has gone out (R186). -/
def clientSendProgress (s : State) : Host.Outcome State Fault Refusal :=
  match s.ps with
  | none => .fault .noPendingSend
  | some p =>
    match p.payload with
    | .bit value again => if again then .next (armSend value s) else .next (sendComplete s)
    | .bytes buf len byteCur bitCur =>
      let byteCur' := if bitCur = 7 then byteCur + 1 else byteCur
      let u := { s with ps := some { p with payload := .bytes buf len byteCur' (bitCur + 1) } }
      if byteCur' = len then .next (sendComplete u) else armPsBit u

/-- `SendBitDone()`: a send has completed (R189). -/
def sendBitDone (s : State) : Host.Outcome State Fault Refusal :=
  if s.stale then armNext { s with stale := false }
  else
    match s.fsm, s.txSrc with
    | .searchingRom, _ => .next (searchSendDone s)
    | .sendingBytes, some .rom => readRomProgress s
    | .sendingBytes, some .client => clientSendProgress s
    | _, _ => .fault .noSendOwner

/-- Byte complete, in the step of the eighth Sample of a byte (R183, R232). -/
def byteComplete (s : State) : Host.Outcome State Fault Refusal :=
  let v := s.rxAcc
  let u := { s with rxAcc := 0, rxBit := 0 }
  match s.fsm with
  | .receivingCommand => dispatchCommand v u
  | .matchingRom => matchByte v u
  | .receivingApplicationByte => .next (armRecv (notifyEvent .byte v u))
  | .disabled => .fault .noReceiveOwner
  | .waitingForReset => .fault .noReceiveOwner
  | .assertingPresence => .fault .noReceiveOwner
  | .searchingRom => .fault .noReceiveOwner
  | .sendingBytes => .fault .noReceiveOwner

/-- Accumulation of a received bit (R182). -/
def accumulate (b : Bool) (s : State) : Host.Outcome State Fault Refusal :=
  let u := { s with rxAcc := addBit s.rxAcc b s.rxBit }
  if s.rxBit.toNat < 7 then .next (armRecv { u with rxBit := s.rxBit + 1 })
  else byteComplete u

/-- `RecvBitDone(b, err)`: a receive has completed; the order of the tests is part of the rule (R190,
R184, R231). -/
def recvBitDone (b err : Bool) (s : State) : Host.Outcome State Fault Refusal :=
  if s.stale then armNext { s with stale := false }
  else if err then .next (raiseError .bitTransferError s)
  else if s.fsm = .searchingRom then .next (searchRecvDone b s)
  else if s.fsm = .receivingApplicationByte then accumulate b (notifyBit b s)
  else accumulate b s

end Sys2Proof.Machine
end

