-- ==== Sys2Proof/Machine/Transceiver.lean ====
section
/-! DEFINITION. The bit transceiver: the two edges and the timer callbacks (42_bit_transceiver.md R148 to
R159), and the firing of the timer (41_timer.md R134). -/

namespace Sys2Proof.Machine

/-- An edge is ignored while disabled and while asserting presence (R148). -/
def edgeIgnored (s : State) : Bool := !s.enabled || s.fsm == .assertingPresence

/-- `Fall`, by the operation that is armed (R150, R151, R152, R159). -/
def startSlot (s : State) : Host.Outcome State Fault Refusal :=
  match s.op with
  | .recvArmed => .next (timerSchedule s.cfg.tSample .sample { s with op := .recvSampling })
  | .send1Armed => sendBitDone { scheduleResetCheck s with op := .idle }
  | .send0Armed =>
    .next (timerSchedule s.cfg.tSend0Hold .holdEnd { s with driveLow := true, op := .send0Holding })
  | .idle => .next s
  | .recvSampling => .next s
  | .send0Holding => .next s

/-- `Fall(t)` at `now = t` (R149). -/
def fall (s : State) : Host.Outcome State Fault Refusal :=
  if edgeIgnored s then .next s
  else
    let u := { s with lowStart := some s.now }
    if s.fsm = .waitingForReset then .next u else startSlot u

/-- `Rise(t)` at `now = t` (R153, R201). -/
def rise (s : State) : Host.Outcome State Fault Refusal :=
  if edgeIgnored s then .next s
  else
    let u := { s with lowStart := none, timer := withoutResetCheck s.timer }
    match s.fsm, s.lowStart with
    | .waitingForReset, some t0 => .next (classifyPulse (s.now - t0) u)
    | _, _ => .next u

/-- The `Sample` callback: the line is read once, here; the transceiver's error output is always false
(R154, R158). -/
def sample (s : State) : Host.Outcome State Fault Refusal :=
  recvBitDone s.line false { scheduleResetCheck s with op := .idle }

/-- The `HoldEnd` callback (R155). -/
def holdEnd (s : State) : Host.Outcome State Fault Refusal :=
  sendBitDone { scheduleResetCheck { s with driveLow := false } with op := .idle }

/-- The `ResetCheck` callback (R157). -/
def resetCheck (s : State) : State :=
  if s.line = false ∧ s.fsm ≠ .waitingForReset then enterWFR s else s

/-- The callback a timer event selects (R134). -/
def runCallback (cb : Callback) (s : State) : Host.Outcome State Fault Refusal :=
  match cb with
  | .beginPresence => .next (beginPresence s)
  | .endPresence => .next (endPresence s)
  | .sample => sample s
  | .holdEnd => holdEnd s
  | .resetCheck => .next (resetCheck s)

/-- `TimerFire`: the slot is cleared first, then the callback runs, in one step (R134). -/
def timerFire (e : TimerEvent) (s : State) : Host.Outcome State Fault Refusal :=
  runCallback e.cb (timerCancel { s with now := max s.now e.deadline })

end Sys2Proof.Machine
end

