-- ==== Sys2Proof/Machine/Events.lean ====
section
/-! DEFINITION. Which event comes next, and its step (00_scope.md R13, R14; 20_memory.md R70, R71, R75
to R78). An edge that is due comes first, so a self-caused edge directly follows its cause (R77); then
what a handler does in reaction to a notification that has been emitted, so that it directly follows the
step that emitted it (R71); then the timer or the next input, whichever is earlier, and at the same time
stamp the free value `Config.timerFirst` decides (R78). -/

namespace Sys2Proof.Machine

/-- The event of one step (R13). -/
inductive Event where
  /-- `Rise` (`true`) or `Fall` (`false`): the line has this level and its last edge had the other. -/
  | edge (level : Bool)
  /-- What a handler does in reaction to a notification (R71). -/
  | reaction (a : ClientAct) (rest : List Reaction)
  /-- `TimerFire`. -/
  | timer (e : TimerEvent)
  /-- The next input. -/
  | input (i : TimedInput) (rest : List TimedInput)
  /-- No event is due or scheduled: nothing changes until the environment acts (R13, R234). -/
  | quiet
deriving DecidableEq, Repr

/-- When an input occurs: at its own time, or now if that has passed. -/
def inputTime (s : State) (i : TimedInput) : Nat := max s.now i.time

/-- The timer and the next input carry the same time stamp, and no rule orders them (R78). -/
def tied (s : State) (e : TimerEvent) (i : TimedInput) : Bool := e.deadline == inputTime s i

/-- Whether the timer goes before the next input. -/
def timerBefore (s : State) (e : TimerEvent) (i : TimedInput) : Bool :=
  if tied s e i then Config.timerFirst s.ties else decide (e.deadline < inputTime s i)

/-- What a handler does next, if the notification it answers has been emitted (R71). Nothing is due for
a notification that has not: a handler's operation never precedes the step that emits it (R232). -/
def dueReaction (s : State) : Option (ClientAct × List Reaction) :=
  match s.reactions with
  | [] => none
  | r :: rest => if r.answers < s.out.length then some (r.act, rest) else none

/-- The timer or the next input, whichever is earlier (R78). -/
def timedEvent (s : State) : Event :=
  match s.timer, s.inputs with
  | none, [] => .quiet
  | some e, [] => .timer e
  | none, i :: rest => .input i rest
  | some e, i :: rest => if timerBefore s e i then .timer e else .input i rest

/-- The next event. -/
def nextEvent (s : State) : Event :=
  if s.line ≠ s.lineSeen then .edge s.line
  else
    match dueReaction s with
    | some (a, rest) => .reaction a rest
    | none => timedEvent s

/-- Whether the choice of the next event settles a tie. -/
def tieSettled (s : State) : Bool :=
  if s.line ≠ s.lineSeen ∨ (dueReaction s).isSome = true then false
  else
    match s.timer, s.inputs with
    | some e, i :: _ => tied s e i
    | none, _ => false
    | some _, [] => false

/-- The count of settled ties after this step's choice. -/
def countTie (s : State) : State := { s with ties := if tieSettled s then s.ties + 1 else s.ties }

/-- The step of what the client does: an operation, decoded and executed (R71, R102), or a store into its
own memory (R63). -/
def applyAct (a : ClientAct) (s : State) : Host.Outcome State Fault Refusal :=
  match a with
  | .operation req => exec (decode (.client req)) s
  | .store addr v => .next { s with tx := Memory.write s.tx addr v }

/-- The step of an input: the environment's level, or what the client does. -/
def applyInput (i : Input) (s : State) : Host.Outcome State Fault Refusal :=
  match i with
  | .ext level => .next { s with ext := level }
  | .client a => applyAct a s

/-- The step of an event (R13). -/
def runEvent (ev : Event) (s : State) : Host.Outcome State Fault Refusal :=
  match ev with
  | .edge level =>
    if level then rise { s with lineSeen := true } else fall { s with lineSeen := false }
  | .reaction a rest => applyAct a { s with reactions := rest }
  | .timer e => timerFire e s
  | .input i rest => applyInput i.what { s with now := inputTime s i, inputs := rest }
  | .quiet => .next s

/-- One step of the machine (R13, R70). -/
def advance (s : State) : Host.Outcome State Fault Refusal := runEvent (nextEvent s) (countTie s)

end Sys2Proof.Machine
end

