-- ==== Sys2Proof/Machine/Fetch.lean ====
section
/-! DEFINITION. Placing an instruction where the next step finds it. The machine has no program counter
(10_state.md R39): a command byte comes bit by bit from the wire, an operation from the client port. -/

namespace Sys2Proof.Machine

/-- The block about to sample the eighth bit of the command byte `v`: its first seven bits accumulated,
the line at its eighth (R182, R183), as the falling edge of that slot left it (R150), and no input or
reaction in the way. -/
def placeCommand (v : Byte) (s : State) : State :=
  { s with
    enabled := true
    fsm := .receivingCommand
    rxAcc := v &&& 0x7F
    rxBit := 7
    rxByte := 0
    rxLen := 1
    op := .recvSampling
    curBit := none
    stale := false
    driveLow := false
    ps := none
    txSrc := none
    ext := v.getLsbD 7
    lineSeen := v.getLsbD 7
    lowStart := if v.getLsbD 7 then none else some s.now
    timer := some ⟨s.now + effectiveDelay s.cfg s.cfg.tSample, .sample⟩
    inputs := []
    reactions := [] }

/-- The client request at the head of the inputs, now, with no edge, timer event or reaction due before
it. -/
def placeClient (r : ClientReq) (s : State) : State :=
  { s with
    lineSeen := s.line
    timer :=
      match s.timer with
      | none => none
      | some e => if e.deadline ≤ s.now then none else some e
    inputs := ⟨s.now, .client (.operation r)⟩ :: s.inputs
    reactions := [] }

/-- An encoded instruction placed for the next step. -/
def placeEncoded (e : Encoded) (s : State) : State :=
  match e with
  | .command v => placeCommand v s
  | .client r => placeClient r s

/-- A word of spec/opcode_table.json placed for the next step; a word that is no row's leaves the state
alone. -/
def placeTableWord (nbits w : Nat) (s : State) : State :=
  match tableWord nbits w with
  | none => s
  | some e => placeEncoded e s

end Sys2Proof.Machine
end

