-- ==== Sys2Proof/Machine/Step.lean ====
section
/-! DEFINITION. The step, and the placing of a table word for it. -/

namespace Sys2Proof.Machine

/-- One step: the atomic reaction to one event (00_scope.md R13). -/
def step (s : State) : Host.Outcome State Fault Refusal := advance s

/-- The state in which the next step runs the instruction of a table word (notes/assumptions/9.md). -/
def State.withFetchWord (s : State) (nbits w : Nat) : State := placeTableWord nbits w s

end Sys2Proof.Machine
end

