-- ==== Sys2Proof/Machine/Script.lean ====
section
/-! DEFINITION. The bus-script notation and the run of a script (30_encoding.md R110 to R116). It is the
spec's own notation for what a master does on the wire and a client at the port; the machine does not
depend on it. -/

namespace Sys2Proof.Machine

/-- `M_SLOT`, `M_LOW1`, `M_LOW0`, `M_SAMPLE`: a conventional master (R111). -/
structure MasterTiming where
  slot : Nat
  low1 : Nat
  low0 : Nat
  sampleAt : Nat
deriving DecidableEq, Repr

/-- The values of R111. -/
def MasterTiming.standard : MasterTiming where
  slot := 70
  low1 := 6
  low0 := 60
  sampleAt := 15

/-- How long `RESET` holds the line low, and idles after, where its operands are omitted (R113). -/
def resetDefault : Nat := 500

/-- The lines of a script: the primitives (R112) and the pseudo-instructions (R113). -/
inductive ScriptLine where
  /-- `AT t`. -/
  | at (t : Nat)
  /-- `IDLE n`. -/
  | idle (n : Nat)
  /-- `LOW d`. -/
  | low (d : Nat)
  /-- `W b`, that is `W1` or `W0`. -/
  | write (b : Bool)
  /-- `R tag`. -/
  | read (tag : Nat)
  /-- `CLIENT @t op(...)`; `none` is an omitted time. -/
  | client (at? : Option Nat) (req : ClientReq)
  /-- `RESET d a`; `none` is an omitted operand. -/
  | reset (d? a? : Option Nat)
  /-- `WBYTE v`. -/
  | writeByte (v : Byte)
  /-- `RBYTE tag`: bit `i` is recorded under `tag + i`. -/
  | readByte (tag : Nat)
deriving DecidableEq, Repr

/-- A script as it expands (R115): the cursor; the intervals `[a, b)` on which `ext` is 0; the inputs so
far in the order of the script, an `ext` input at each end of an interval; and the times at which the
master samples the line, with their tags. -/
structure Expansion where
  cursor : Nat
  lows : List (Nat × Nat)
  inputs : List TimedInput
  probes : List (Nat × Nat)
deriving DecidableEq, Repr

/-- The environment holds the line low for `d` from the cursor, which then moves by `n` (R112). -/
def Expansion.pull (d n : Nat) (x : Expansion) : Expansion :=
  { x with
    lows := x.lows ++ [(x.cursor, x.cursor + d)]
    inputs := x.inputs ++ [⟨x.cursor, .ext false⟩, ⟨x.cursor + d, .ext true⟩]
    cursor := x.cursor + n }

/-- `W b` (R112, R113). -/
def Expansion.writeSlot (m : MasterTiming) (b : Bool) (x : Expansion) : Expansion :=
  x.pull (if b then m.low1 else m.low0) m.slot

/-- `R tag` (R112). -/
def Expansion.readSlot (m : MasterTiming) (tag : Nat) (x : Expansion) : Expansion :=
  { x.pull m.low1 m.slot with probes := x.probes ++ [(x.cursor + m.sampleAt, tag)] }

/-- One line of a script (R112, R113). -/
def Expansion.line (m : MasterTiming) (x : Expansion) (l : ScriptLine) : Expansion :=
  match l with
  | .at t => { x with cursor := t }
  | .idle n => { x with cursor := x.cursor + n }
  | .low d => x.pull d d
  | .write b => x.writeSlot m b
  | .read tag => x.readSlot m tag
  | .client t req => { x with inputs := x.inputs ++ [⟨t.getD x.cursor, .client (.operation req)⟩] }
  | .reset d a => { x.pull (d.getD resetDefault) (d.getD resetDefault) with
      cursor := x.cursor + d.getD resetDefault + a.getD resetDefault }
  | .writeByte v => (wireBits v).foldl (fun y b => y.writeSlot m b) x
  | .readByte tag => (List.range 8).foldl (fun y i => y.readSlot m (tag + i)) x

/-- An input put after every input that is not later. -/
def insertInput (i : TimedInput) : List TimedInput → List TimedInput
  | [] => [i]
  | j :: rest => if i.time < j.time then i :: j :: rest else j :: insertInput i rest

/-- The inputs in time order; inputs of one time stay in the order of the script. -/
def sortInputs (l : List TimedInput) : List TimedInput := l.foldl (fun acc i => insertInput i acc) []

/-- `ext` at time `t`: 0 inside an interval, 1 outside all of them (R112). -/
def extAt (lows : List (Nat × Nat)) (t : Nat) : Bool :=
  !lows.any (fun p => decide (p.1 ≤ t) && decide (t < p.2))

/-- Inputs in time order with their `ext` inputs reduced to the changes of `ext`, which has the level
`now` before them: an end of an interval that leaves `ext` as it is, of an empty interval or between two
that meet, is no change (R112, R115). -/
def extChanges (lows : List (Nat × Nat)) : Bool → List TimedInput → List TimedInput
  | _, [] => []
  | now, i :: rest =>
    match i.what with
    | .client _ => i :: extChanges lows now rest
    | .ext _ =>
      if extAt lows i.time = now then extChanges lows now rest
      else ⟨i.time, .ext (extAt lows i.time)⟩ :: extChanges lows (extAt lows i.time) rest

/-- The encoding of a script (R115): the list of `ext` changes and client operations it expands to. The
cursor starts at 0 and `ext` at 1. That the cursor starts at 0 is the model's: DESIGN CHOICE
(notes/assumptions/22.md), safe; R110 gives it no value before the first line. -/
def expandScript (m : MasterTiming) (lines : List ScriptLine) : Expansion :=
  let x := lines.foldl (Expansion.line m) ⟨0, [], [], []⟩
  { x with inputs := extChanges x.lows true (sortInputs x.inputs) }

/-- When the next event occurs; `none` if no event is due or scheduled. -/
def nextEventTime (s : State) : Option Nat :=
  match nextEvent s with
  | .edge _ => some s.now
  | .reaction _ _ => some s.now
  | .timer e => some (max s.now e.deadline)
  | .input i _ => some (inputTime s i)
  | .quiet => none

/-- The run of R116: the steps of the events at times up to `tEnd`, at most `fuel` of them. -/
def runUntil (tEnd : Nat) : Nat → State → Host.Outcome State Fault Refusal
  | 0, s => .next s
  | fuel + 1, s =>
    match nextEventTime s with
    | none => .next s
    | some t =>
      if t ≤ tEnd then
        match step s with
        | .next s' => runUntil tEnd fuel s'
        | .fault r => .fault r
        | .refused r => .refused r
      else .next s

end Sys2Proof.Machine
end

