-- ==== Sys2Proof/Safety.lean ====
section
/-! DEFINITION. What the spec says holds between steps (10_state.md R22, R29, R30, R31, R34, R41), and
when a run is over (30_encoding.md R116). -/

namespace Sys2Proof.Machine

/-- A bit operation that receives. -/
def BitOp.receives (o : BitOp) : Prop := o = .recvArmed ∨ o = .recvSampling

/-- A bit operation that sends. -/
def BitOp.sends (o : BitOp) : Prop := o = .send1Armed ∨ o = .send0Armed ∨ o = .send0Holding

/-- The bit that an operation sends, if it is a send (R31). -/
def BitOp.sentBit (o : BitOp) : Option Bool :=
  match o with
  | .idle => none
  | .recvArmed => none
  | .recvSampling => none
  | .send1Armed => some true
  | .send0Armed => some false
  | .send0Holding => some false

/-- A client send has bytes left: its buffer is not empty and its byte cursor is below its length (R36). -/
def PendingSend.InRange (p : PendingSend) : Prop :=
  ∀ buf len byteCur bitCur, p.payload = .bytes buf len byteCur bitCur → byteCur < len

/-- The invariant of the block (R41), with the facts of R22, R23, R29, R30, R31, R34, R35, R36 and R37
that it rests on. It is about every state; no run is mentioned. -/
structure Inv (s : State) : Prop where
  /-- The parameters are legal (R6, R7, R8). -/
  cfg_legal : s.cfg.Legal
  /-- R22. -/
  enabled_iff : s.enabled = true ↔ s.fsm ≠ .disabled
  /-- R22, the state while disabled. -/
  disabled_quiet : s.fsm = .disabled → s.timer = none ∧ s.lowStart = none
  /-- R30. -/
  idle_iff : s.op = .idle ↔
    (s.fsm = .disabled ∨ s.fsm = .waitingForReset ∨ s.fsm = .assertingPresence)
  /-- R31. -/
  cur_bit : s.curBit = s.op.sentBit
  /-- R41 (b). -/
  ps_iff : s.ps.isSome = true ↔ (s.fsm = .sendingBytes ∧ s.txSrc = some .client)
  /-- R36. -/
  ps_range : ∀ p, s.ps = some p → p.InRange
  /-- R37. -/
  tx_src : s.txSrc.isSome = true ↔ s.fsm = .sendingBytes
  /-- R37. -/
  tx_cur : s.fsm = .sendingBytes → s.txSrc = some .rom → s.txCur.toNat < 64
  /-- R34 and R41 (c). -/
  drive_low : s.driveLow = true ↔
    (s.op = .send0Holding ∨ (s.fsm = .assertingPresence ∧ s.apPhase = .pulse))
  /-- R41 (d): Sample, exactly while a sample is awaited. -/
  timer_sample : s.op = .recvSampling ↔ ∃ t, s.timer = some ⟨t, .sample⟩
  /-- R41 (d): HoldEnd, exactly while a 0 is held. -/
  timer_hold : s.op = .send0Holding ↔ ∃ t, s.timer = some ⟨t, .holdEnd⟩
  /-- R41 (d): BeginPresence. -/
  timer_begin : (s.fsm = .assertingPresence ∧ s.apPhase = .wait) ↔
    ∃ t, s.timer = some ⟨t, .beginPresence⟩
  /-- R41 (d): EndPresence. -/
  timer_end : (s.fsm = .assertingPresence ∧ s.apPhase = .pulse) ↔
    ∃ t, s.timer = some ⟨t, .endPresence⟩
  /-- R41 (d): ResetCheck. -/
  timer_check : ∀ t, s.timer = some ⟨t, .resetCheck⟩ →
    s.lowStart.isSome = true ∧ s.op.inFlight = false ∧ s.fsm ≠ .assertingPresence
  /-- The timer never lies in the past (R134). -/
  timer_future : ∀ e, s.timer = some e → s.now ≤ e.deadline
  /-- R41 (e). -/
  stale_in_flight : s.stale = true → s.op.inFlight = true ∧
    (s.fsm = .receivingApplicationByte ∨ (s.fsm = .sendingBytes ∧ s.txSrc = some .client))
  /-- R35: a recorded fall is past, and the line has not been seen to rise since. -/
  low_start : ∀ t, s.lowStart = some t →
    s.lineSeen = false ∧ t ≤ s.now ∧ s.fsm ≠ .assertingPresence
  /-- A held 0 was begun by a fall that no rise has followed (R155). -/
  hold_low : s.op = .send0Holding → s.lowStart.isSome = true
  /-- Which states a receive belongs to (R190). -/
  recv_owner : s.op.receives → s.stale = false →
    s.fsm = .receivingCommand ∨ s.fsm = .matchingRom ∨ s.fsm = .receivingApplicationByte ∨
    (s.fsm = .searchingRom ∧ s.searchPhase = .recvDirection)
  /-- Which states a send belongs to (R189). -/
  send_owner : s.op.sends → s.stale = false →
    s.fsm = .sendingBytes ∨ (s.fsm = .searchingRom ∧ s.searchPhase ≠ .recvDirection)
  /-- R29: Match ROM receives eight bytes and has room for the next. -/
  rx_match : s.fsm = .matchingRom → s.rxLen = 8 ∧ s.rxByte.toNat < 8
  /-- R29: the command byte and an application byte are receives of one byte. -/
  rx_one : s.fsm = .receivingCommand ∨ s.fsm = .receivingApplicationByte →
    s.rxLen = 1 ∧ s.rxByte = 0
  /-- R41 (f). -/
  rom_crc : s.enabled = true →
    s.rom.b7 = crc8 [s.rom.b0, s.rom.b1, s.rom.b2, s.rom.b3, s.rom.b4, s.rom.b5, s.rom.b6]
  /-- The client's memory is in canonical form. -/
  tx_wf : Memory.wf s.tx = true

/-- Nothing is pending that would change the state without a new event from the master or the client
(R116). -/
def State.quiescent (s : State) : Bool :=
  s.timer.isNone && !s.driveLow && s.lowStart.isNone && !s.op.inFlight

/-! ### The terms of the claims -/

/-- An edge to `level` is the next event: the line has that level and its last delivered edge had the
other (R76, R77). -/
def EdgeDue (s : State) (level : Bool) : Prop := s.line = level ∧ s.lineSeen = !level

/-- No handler's reaction is due: the notification that the next one answers is still to come (R71). -/
def NoReaction (s : State) : Prop :=
  ∀ r rest, s.reactions = r :: rest → s.out.length ≤ r.answers

/-- The handler's reaction `a` is the next event: no edge is due, and the notification it answers has been
emitted (R71). -/
def ReactionDue (s : State) (a : ClientAct) (rest : List Reaction) : Prop :=
  s.line = s.lineSeen ∧ ∃ n, s.reactions = ⟨n, a⟩ :: rest ∧ n < s.out.length

/-- The timer's callback `cb` is the next event, at its deadline `t`: no edge is due, and no input comes
at or before `t` and no handler reacts (R134). -/
def TimerDue (s : State) (cb : Callback) (t : Nat) : Prop :=
  s.line = s.lineSeen ∧ NoReaction s ∧ s.timer = some ⟨t, cb⟩ ∧ s.now ≤ t ∧
  ∀ i rest, s.inputs = i :: rest → t < i.time

/-- The input `i` is the next event: no edge is due, no handler reacts, and the timer's deadline is later
(R13). -/
def InputDue (s : State) (i : TimedInput) (rest : List TimedInput) : Prop :=
  s.line = s.lineSeen ∧ NoReaction s ∧ s.inputs = i :: rest ∧
  ∀ e, s.timer = some e → max s.now i.time < e.deadline

/-- What the client does in the next event, from its main program or from a handler (R71). -/
def nextClientAct (s : State) : Option ClientAct :=
  match nextEvent s with
  | .input ⟨_, .client a⟩ _ => some a
  | .reaction a _ => some a
  | _ => none

/-- The next event is a client operation with this meaning. -/
def ClientTurn (s : State) (i : Instr) : Prop :=
  ∃ req, nextClientAct s = some (.operation req) ∧ decode (.client req) = i

/-- The timer slot after a bit operation completed at time `t` by a callback: the background reset check,
if the line has not risen since it fell (R156). -/
def checkAt (s : State) (t : Nat) : Option TimerEvent :=
  match s.lowStart with
  | none => none
  | some t0 => some ⟨t + effectiveDelay s.cfg (t0 + s.cfg.tResetCheck - t), .resetCheck⟩

/-- The operation of the armed send has completed in the next event, at the end of a held 0 or at the
falling edge that completes a 1, and `done` is the state that its owner finds, but for the operation
itself, which the owner replaces (R151, R155, R156). -/
def SlotSent (s done : State) : Prop :=
  (∃ t, TimerDue s .holdEnd t ∧
    done = { s with now := t, driveLow := false, timer := checkAt s t }) ∨
  (EdgeDue s false ∧ s.enabled = true ∧ s.op = .send1Armed ∧
    done = { s with
      lineSeen := false, lowStart := some s.now
      timer := some ⟨s.now + effectiveDelay s.cfg s.cfg.tResetCheck, .resetCheck⟩ })

/-- The bit that a payload puts in the next slot, its cursor being within the buffer (R185). -/
def payloadBit (s : State) : Payload → Bool
  | .bit value _ => value
  | .bytes buf _ byteCur bitCur => (Memory.read s.tx (buf + byteCur)).getLsbD bitCur.toNat

/-- The notification that cancelling the armed client send makes (R264). -/
def cancelNotice (s : State) : List Emission :=
  match s.ps with
  | none => []
  | some p => if p.hasCb then [⟨s.now, .sendDone true⟩] else []

/-- The timer slot that leaving a transaction leaves: a Sample or HoldEnd is cancelled (R207). -/
def keptTimer (s : State) : Option TimerEvent :=
  match s.timer with
  | some ⟨_, .sample⟩ => none
  | some ⟨_, .holdEnd⟩ => none
  | other => other

/-- `s` back in WaitingForReset, as R207 lists its fields, with these notifications appended. -/
def backToWaiting (s : State) (said : List Emission) : State :=
  { s with
    ps := none
    fsm := .waitingForReset
    op := .idle
    curBit := none
    stale := false
    driveLow := false
    txSrc := none
    timer := keptTimer s
    out := s.out ++ said }

/-- `s` receiving the first bit of a fresh application byte (R230, R181). -/
def inFreshByte (s : State) : State :=
  { s with
    fsm := .receivingApplicationByte
    txSrc := none
    rxLen := 1
    rxByte := 0
    rxBit := 0
    rxAcc := 0
    op := .recvArmed
    curBit := none }

/-- The operation that sends `b` (R147). -/
def sendOp (b : Bool) : BitOp := if b then .send1Armed else .send0Armed

/-- The notification `Event(e, v)`, if the receive callback is registered (R262). -/
def eventNotice (s : State) (e : EventKind) (v : Byte) : List Emission :=
  if s.recvCbEn then [⟨s.now, .event e v⟩] else []

/-- The notification `Bit(b)`, if the per-bit callback is registered (R263). -/
def bitNotice (s : State) (b : Bool) : List Emission :=
  if s.bitCbEn then [⟨s.now, .bit b⟩] else []

/-- The block is in the application byte loop (R230, R259). -/
def InLoop (s : State) : Prop :=
  s.fsm = .receivingApplicationByte ∨ (s.fsm = .sendingBytes ∧ s.txSrc = some .client)

/-- The bit operation is armed and not yet started (R30). -/
def BitOp.armed (o : BitOp) : Bool :=
  match o with
  | .recvArmed => true
  | .send1Armed => true
  | .send0Armed => true
  | .idle => false
  | .recvSampling => false
  | .send0Holding => false

/-- The pairs of values of `fsm` that one step may move between, table T-FSM (R200): `end` from anywhere
enabled, `begin` to WaitingForReset from anywhere, and the rows of the protocol. -/
def fsmMoves : List (Fsm × Fsm) :=
  [(.waitingForReset, .assertingPresence),
   (.assertingPresence, .receivingCommand),
   (.receivingCommand, .searchingRom),
   (.receivingCommand, .matchingRom),
   (.receivingCommand, .receivingApplicationByte),
   (.receivingCommand, .sendingBytes),
   (.matchingRom, .receivingApplicationByte),
   (.sendingBytes, .receivingApplicationByte),
   (.receivingApplicationByte, .sendingBytes),
   (.receivingCommand, .waitingForReset),
   (.searchingRom, .waitingForReset),
   (.matchingRom, .waitingForReset),
   (.receivingApplicationByte, .waitingForReset),
   (.sendingBytes, .waitingForReset)]

end Sys2Proof.Machine
end

