-- ==== Sys2Proof/Certificates/Slice0/Obligations.lean ====
section
/-! DEFINITION. The statements for the provers. -/

open Sys2Proof Sys2Proof.Machine

/-! ### Encoding -/

/-- Decoding an encoded well-formed instruction gives it back, for every instruction and every operand.
The operand lanes of a client request are the model's layout (notes/assumptions/3.md); the codes are
30_encoding.md's. -/
def Obligations.DecodeEncodeRoundTrip : Prop :=
  ∀ i : Instr, i.WellFormed → decode (encode i) = i

/-- Whatever is decoded is well formed, and a command byte is the encoding of what it decodes to: no two
command bytes are one instruction (R98, R100). -/
def Obligations.DecodedIsWellFormed : Prop :=
  (∀ e : Encoded, (decode e).WellFormed) ∧
  ∀ v : Byte, encode (decode (.command v)) = .command v

/-- R98 and R100: the six values, matched on all eight bits; every other value is an unknown command. -/
def Obligations.CommandBytesDecode : Prop :=
  ∀ v : Byte,
    (decode (.command v) = .searchRom ↔ v = 0b11110000) ∧
    (decode (.command v) = .condSearch ↔ v = 0b11101100) ∧
    (decode (.command v) = .readRom ↔ v = 0b00110011) ∧
    (decode (.command v) = .matchRom ↔ v = 0b01010101) ∧
    (decode (.command v) = .skipRom ↔ v = 0b11001100) ∧
    (decode (.command v) = .resume ↔ v = 0b10100101) ∧
    (decode (.command v) = .unknownCommand v ↔
      v ≠ 0xF0 ∧ v ≠ 0xEC ∧ v ≠ 0x33 ∧ v ≠ 0x55 ∧ v ≠ 0xCC ∧ v ≠ 0xA5)

/-- Table T-CLIENTOP (R102): the operation of each code, with its operands from the lanes of the
request, which are the model's layout (notes/assumptions/3.md). The codes are the spec's own
(92_eei_decisions.md D20). -/
def Obligations.ClientCodesDecode : Prop :=
  ∀ r : ClientReq,
    (r.code = 0b0000 → decode (.client r) = .beginOp r.rom r.eighth r.pin) ∧
    (r.code = 0b0001 → decode (.client r) = .endOp) ∧
    (r.code = 0b0010 → decode (.client r) = .setRecvCb r.flag) ∧
    (r.code = 0b0011 → decode (.client r) = .setBitCb r.flag) ∧
    (r.code = 0b0100 → decode (.client r) = .alarmed r.flag) ∧
    (r.code = 0b0101 → decode (.client r) = .write r.buf r.len r.hasCb) ∧
    (r.code = 0b0110 → decode (.client r) = .writeBit r.flag r.again r.hasCb) ∧
    (r.code = 0b0111 → decode (.client r) = .stopWrite) ∧
    (r.code = 0b1000 → decode (.client r) = .crc8 r.bytes) ∧
    (9 ≤ r.code.toNat → decode (.client r) = .clientReserved r.code)

/-- R96: the received byte is the sum of its bits, the first at bit 0, and a byte sent in its time slots
and received again is the same byte. -/
def Obligations.ByteIsItsEightSlots : Prop :=
  (∀ b0 b1 b2 b3 b4 b5 b6 b7 : Bool,
    addBit (addBit (addBit (addBit (addBit (addBit (addBit (addBit 0 b0 0) b1 1) b2 2) b3 3)
      b4 4) b5 5) b6 6) b7 7 =
      BitVec.ofNat 8 (b0.toNat + 2 * b1.toNat + 4 * b2.toNat + 8 * b3.toNat + 16 * b4.toNat +
        32 * b5.toNat + 64 * b6.toNat + 128 * b7.toNat)) ∧
  (∀ v : Byte, byteOfBits (wireBits v) = v) ∧
  (∀ (v : Byte) (k : Fin 8), (wireBits v)[k.val]? = some ((v >>> k.val).getLsbD 0)) ∧
  wireBits 0xAB = [true, true, false, true, false, true, false, true]

/-! ### The checksum -/

/-- R121: the algorithm, bit by bit over the whole sequence, bit 0 of each byte first, and its examples.
The loop is the spec's own reading of the source's four parameters (92_eei_decisions.md D24). -/
def Obligations.CrcIsTheBitSerialLoop : Prop :=
  (∀ m : List Byte, crc8 m =
    (m.flatMap (fun v => [v.getLsbD 0, v.getLsbD 1, v.getLsbD 2, v.getLsbD 3, v.getLsbD 4,
      v.getLsbD 5, v.getLsbD 6, v.getLsbD 7])).foldl
      (fun (crc : Byte) (d : Bool) => if crc.getLsbD 0 ^^ d then (crc >>> 1) ^^^ 0x8C else crc >>> 1) 0) ∧
  crc8 [] = 0x00 ∧ crc8 [0x00] = 0x00 ∧ crc8 [0x01] = 0x5E

/-- R122: the three facts of the checksum: (a) appending the check byte gives zero; (b) it is linear
over exclusive-or, for inputs of equal length; (c) a table of the single-byte values, indexed by the
register and the byte, computes the same function. The spec derives them from R121. -/
def Obligations.CrcResidueLinearityAndTable : Prop :=
  (∀ m : List Byte, crc8 (m ++ [crc8 m]) = 0) ∧
  (∀ a b : List Byte, a.length = b.length →
    crc8 (List.zipWith (· ^^^ ·) a b) = crc8 a ^^^ crc8 b) ∧
  ∀ m : List Byte, crc8 m = m.foldl (fun crc v => crc8 [crc ^^^ v]) 0

/-! ### The timer -/

/-- R131 and R133: scheduling replaces the slot, with the deadline that the quantisation gives. The
rounding is the spec's reading (92_eei_decisions.md D4); the default tick and overhead are the model's
choice (notes/assumptions/1.md). -/
def Obligations.ScheduleArmsAtQuantisedDelay : Prop :=
  (∀ (s : State) (d : Nat) (cb : Callback),
    timerSchedule d cb s =
      { s with timer := some ⟨s.now + (s.cfg.timerOverhead +
          max 1 ((d - s.cfg.timerOverhead) / s.cfg.timerTick) * s.cfg.timerTick), cb⟩ }) ∧
  (∀ d, effectiveDelay Params.standard d = max 1 d) ∧
  (∀ p : Params, effectiveDelay p 0 = p.timerOverhead + p.timerTick) ∧
  ∀ p : Params, p.timerTick = 4 → p.timerOverhead = 3 →
    effectiveDelay p 25 = 23 ∧ effectiveDelay p 35 = 35 ∧ effectiveDelay p 300 = 299 ∧
    ∀ d, d ≤ 10 → effectiveDelay p d = 7

/-- R133, R330: with a legal tick the delay is never below its floor, and from the floor on it is
honoured to within one tick. The rounding is the spec's reading (92_eei_decisions.md D4). -/
def Obligations.DelayHonouredWithinOneTick : Prop :=
  ∀ (p : Params) (d : Nat), p.Legal →
    p.timerOverhead + p.timerTick ≤ effectiveDelay p d ∧
    (p.timerOverhead + p.timerTick ≤ d → effectiveDelay p d ≤ d ∧ d < effectiveDelay p d + p.timerTick)

/-- R134: when the timer is the next event, it fires at its deadline with the slot already cleared. That
it fires exactly at its deadline is the spec's decision (92_eei_decisions.md D1). -/
def Obligations.TimerFiresAtDeadlineCleared : Prop :=
  ∀ (s : State) (cb : Callback) (t : Nat), TimerDue s cb t →
    step s = runCallback cb { s with timer := none, now := t }

/-! ### Events -/

/-- An edge that is due is the next event, whatever the timer, the handlers and the inputs hold. For an
edge that the block causes this is R77 (92_eei_decisions.md D17); that it also precedes what a handler
does is the model's reading (notes/assumptions/14.md). For an edge that the environment causes R78 leaves
the order against a timer event of the same time open: that the edge directly follows the change of `ext`
is the model's choice (notes/assumptions/13.md, unsafe at that tie). -/
def Obligations.DueEdgeComesFirst : Prop :=
  ∀ s : State,
    (EdgeDue s true → step s = rise { s with lineSeen := true }) ∧
    (EdgeDue s false → step s = fall { s with lineSeen := false })

/-- A client request whose turn it is, is decoded and executed: one from the main program with the time
moved to its own and the request consumed, one from a handler at the time of the step it follows. A
request whose time has passed occurs now (notes/assumptions/10.md); that a handler's operation is a step
that directly follows is the spec's decision (92_eei_decisions.md D19). -/
def Obligations.StepRunsClientOperation : Prop :=
  ∀ (s : State) (req : ClientReq) (i : Instr), decode (.client req) = i →
    (∀ (t : Nat) (rest : List TimedInput), InputDue s ⟨t, .client (.operation req)⟩ rest →
      step s = exec i { s with now := max s.now t, inputs := rest }) ∧
    (∀ rest : List Reaction, ReactionDue s (.operation req) rest →
      step s = exec i { s with reactions := rest })

/-- The eighth Sample of a command byte decodes and executes the byte in the same step (R210, R218): its
bits 0 to 6 are in the accumulator and bit 7 is the line; the reset check is scheduled first (R154). The
place of the reset check is the spec's decision (92_eei_decisions.md D27). -/
def Obligations.StepRunsCommandByte : Prop :=
  ∀ (s : State) (t : Nat) (i : Instr),
    TimerDue s .sample t → s.fsm = .receivingCommand → s.stale = false → s.rxBit = 7 →
    decode (.command (s.rxAcc ||| (if s.line then 0x80 else 0x00))) = i →
    step s = exec i { s with
      now := t, timer := checkAt s t, op := .idle, rxAcc := 0, rxBit := 0 }

/-- R78: where the timer and an input carry one time stamp, either order is admitted, and which is taken is
the free value `Config.timerFirst` (notes/assumptions/2.md). What a handler does goes before both once
the notification it answers has been emitted, and not before that (R71, as the spec decides in
92_eei_decisions.md D19; notes/assumptions/14.md). -/
def Obligations.TieTakesEitherOrder : Prop :=
  ∀ (s : State) (e : TimerEvent) (i : TimedInput) (rest : List TimedInput),
    s.line = s.lineSeen → s.timer = some e → s.inputs = i :: rest →
    s.now ≤ i.time → e.deadline = i.time →
    (∀ (a : ClientAct) (later : List Reaction), ReactionDue s a later →
      step s = applyAct a { s with reactions := later }) ∧
    (NoReaction s →
      step s =
        if Config.timerFirst s.ties then
          runCallback e.cb { s with timer := none, now := i.time, ties := s.ties + 1 }
        else applyInput i.what { s with now := i.time, inputs := rest, ties := s.ties + 1 })

/-- R234, R13: with no edge due, no handler to react, no timer and no input, nothing changes. The form, a
step that answers the same state, is the model's (notes/assumptions/15.md). -/
def Obligations.NothingHappensWithoutAnEvent : Prop :=
  ∀ s : State, s.line = s.lineSeen → NoReaction s → s.timer = none → s.inputs = [] → step s = .next s

/-! ### Edges -/

/-- R148: an edge while disabled or while asserting presence changes nothing of the block. That edges
are ignored while asserting presence is the spec's decision (92_eei_decisions.md D25); the model's
record of the last edge is updated (notes/assumptions/6.md). -/
def Obligations.IgnoredEdgeChangesNothing : Prop :=
  ∀ (s : State) (level : Bool), EdgeDue s level →
    (s.enabled = false ∨ s.fsm = .assertingPresence) →
    step s = .next { s with lineSeen := level }

/-- R149, R150, R152 and R159: what a falling edge does when it is not ignored, for each operation but a
send of 1, and in WaitingForReset. That a second falling edge in flight is bookkeeping only is the spec's
decision (92_eei_decisions.md D26), the quantised deadlines are R133's (D4). -/
def Obligations.FallingEdge : Prop :=
  ∀ s : State, EdgeDue s false → s.enabled = true → s.fsm ≠ .assertingPresence →
    let seen := { s with lineSeen := false, lowStart := some s.now }
    (s.fsm = .waitingForReset → step s = .next seen) ∧
    (s.fsm ≠ .waitingForReset → s.op = .recvArmed →
      step s = .next { seen with
        op := .recvSampling, timer := some ⟨s.now + effectiveDelay s.cfg s.cfg.tSample, .sample⟩ }) ∧
    (s.fsm ≠ .waitingForReset → s.op = .send0Armed →
      step s = .next { seen with
        driveLow := true, op := .send0Holding,
        timer := some ⟨s.now + effectiveDelay s.cfg s.cfg.tSend0Hold, .holdEnd⟩ }) ∧
    (s.fsm ≠ .waitingForReset → (s.op = .recvSampling ∨ s.op = .send0Holding ∨ s.op = .idle) →
      step s = .next seen)

/-- R151, R155 with R223: a bit of Read ROM has gone out, a 1 at its falling edge or a 0 at the end of its
hold: the next ROM bit is armed, and after the 64th the application byte loop is entered. The
representation of the ROM send is the spec's decision (92_eei_decisions.md D13), the place of the reset
check D27. -/
def Obligations.SendOneOfReadRom : Prop :=
  ∀ s done : State, SlotSent s done → s.stale = false →
    s.fsm = .sendingBytes → s.txSrc = some .rom →
    (s.txCur.toNat < 63 →
      step s =
        let b := romBit (BitVec.ofNat 6 (s.txCur.toNat + 1)) s
        .next { done with txCur := s.txCur + 1, op := sendOp b, curBit := some b }) ∧
    (s.txCur = 63 → step s = .next (inFreshByte { done with txCur := 64 }))

/-- R153: a rising edge outside WaitingForReset clears the recorded fall and cancels a pending ResetCheck,
and nothing else. -/
def Obligations.RisingEdgeCancelsResetCheck : Prop :=
  ∀ s : State, EdgeDue s true → s.enabled = true → s.fsm ≠ .assertingPresence →
    s.fsm ≠ .waitingForReset →
    ((∃ d, s.timer = some ⟨d, .resetCheck⟩) →
      step s = .next { s with lineSeen := true, lowStart := none, timer := none }) ∧
    ((∀ d, s.timer ≠ some ⟨d, .resetCheck⟩) →
      step s = .next { s with lineSeen := true, lowStart := none })

/-- R202, R203, R204: the classification of a low pulse at its rising edge in WaitingForReset, with the
legal parameters (480 and 900): ignored, accepted, or ResetTooLong; a pulse whose falling edge was not
seen classifies nothing (R153, R326). The moment of `Event(Reset)`, the diagnostic code and the unseen
pulse are the spec's decisions (92_eei_decisions.md D31, D41, D43). -/
def Obligations.PulseClassifiedAtItsEnd : Prop :=
  ∀ s : State, Inv s → EdgeDue s true → s.fsm = .waitingForReset →
    (∀ t0, s.lowStart = some t0 →
      (s.now - t0 < 480 →
        step s = .next { s with lineSeen := true, lowStart := none, timer := none }) ∧
      (480 ≤ s.now - t0 → s.now - t0 ≤ 900 →
        step s = .next { s with
          lineSeen := true, lowStart := none, fsm := .assertingPresence, apPhase := .wait
          timer := some ⟨s.now + effectiveDelay s.cfg s.cfg.tPresenceWait, .beginPresence⟩
          out := s.out ++ eventNotice s .reset 0 }) ∧
      (900 < s.now - t0 →
        step s = .next { s with
          lineSeen := true, lowStart := none, timer := none
          out := s.out ++ ⟨s.now, .diag 1⟩ :: eventNotice s .error 0 })) ∧
    (s.lowStart = none → step s = .next { s with lineSeen := true })

/-! ### Timer callbacks -/

/-- R205 and R206: the presence pulse begins and ends. The phase and the state of the edge record at the
end are the spec's decisions (92_eei_decisions.md D7, D25). -/
def Obligations.PresencePulse : Prop :=
  ∀ (s : State) (t : Nat),
    (TimerDue s .beginPresence t →
      step s = .next { s with
        now := t, driveLow := true, apPhase := .pulse
        timer := some ⟨t + effectiveDelay s.cfg s.cfg.tPresence, .endPresence⟩ }) ∧
    (TimerDue s .endPresence t →
      step s = .next { s with
        now := t, timer := none, driveLow := false, lowStart := none, fsm := .receivingCommand
        rxLen := 1, rxByte := 0, rxBit := 0, rxAcc := 0, op := .recvArmed, curBit := none })

/-- R157: the reset check with the line low abandons the transaction, keeps the recorded fall and fails
an armed client send; in WaitingForReset it does nothing. What the check does in WaitingForReset, and
which pending callbacks are cancelled, are the spec's decisions (92_eei_decisions.md D27). -/
def Obligations.ResetCheckAbandonsTransaction : Prop :=
  ∀ (s : State) (t : Nat), TimerDue s .resetCheck t →
    let fired := { s with now := t, timer := none }
    (s.line = false → s.fsm ≠ .waitingForReset →
      step s = .next (backToWaiting fired (cancelNotice fired))) ∧
    ((s.line = true ∨ s.fsm = .waitingForReset) → step s = .next fired)

/-- R182 and R231: the Sample of one of the first seven bits of a byte adds it at its place and arms the
next receive; it notifies the bit if the byte is an application byte, and not for a command byte or a
byte of Match ROM. The place of the reset check and the order of the notification are the spec's
decisions (92_eei_decisions.md D27, D32). -/
def Obligations.SampleOfApplicationBit : Prop :=
  ∀ (s : State) (t : Nat), TimerDue s .sample t →
    (s.fsm = .receivingCommand ∨ s.fsm = .matchingRom ∨ s.fsm = .receivingApplicationByte) →
    s.stale = false → s.rxBit.toNat < 7 →
    step s = .next { s with
      now := t, timer := checkAt s t, op := .recvArmed, curBit := none
      rxAcc := s.rxAcc ||| ((if s.line then (1 : Byte) else 0) <<< s.rxBit.toNat)
      rxBit := s.rxBit + 1
      out := s.out ++
        (if s.fsm = .receivingApplicationByte then bitNotice { s with now := t } s.line else []) }

/-- R232, R267 and R333: the Sample of the eighth bit hands the byte over, `Bit` before `Event(Byte)`,
keeps nothing of it and arms the next receive; and a WRITE that the handler issues in reaction to that
`Event(Byte)` is the very next step, finds the receive armed and takes the next slot. The order of the
two notifications, the place of the reset check and the step of the handler's operation are the spec's
decisions (92_eei_decisions.md D32, D27, D19), which slot the send takes is D14; the list of the handlers'
reactions is the model's own field (notes/assumptions/14.md). -/
def Obligations.SampleCompletesApplicationByte : Prop :=
  ∀ (s : State) (t : Nat), TimerDue s .sample t → s.fsm = .receivingApplicationByte →
    s.stale = false → s.rxBit = 7 →
    let handed : State := { s with
      now := t, timer := checkAt s t, op := .recvArmed, curBit := none, rxAcc := 0, rxBit := 0
      out := s.out ++ bitNotice { s with now := t } s.line ++
        eventNotice { s with now := t } .byte (s.rxAcc ||| (if s.line then 0x80 else 0x00)) }
    step s = .next handed ∧
    ∀ (req : ClientReq) (a len : Nat) (hasCb : Bool) (later : List Reaction),
      s.enabled = true → s.recvCbEn = true → s.ps = none →
      decode (.client req) = .write (some a) len hasCb → 0 < len →
      s.reactions = ⟨s.out.length + (bitNotice s s.line).length, .operation req⟩ :: later →
      step handed =
        let b := (Memory.read s.tx a).getLsbD 0
        .next { handed with
          reactions := later, ps := some ⟨.bytes a len 0 0, hasCb⟩, fsm := .sendingBytes
          txSrc := some .client, op := sendOp b, curBit := some b }

/-- R188: an operation in flight whose owner was cancelled is dropped at its completion; a held 0 is
released by its HoldEnd as usual. Where no send has taken over, reception is armed; where a WRITE or a
WRITE_BIT arrived in flight, the bit at its cursor is armed, which no dropped completion advances. That
an operation in flight is finished and dropped is the spec's decision (92_eei_decisions.md D14), when a
byte is read D16, the place of the reset check D27. -/
def Obligations.StaleCompletionIsDropped : Prop :=
  ∀ (s : State) (t : Nat), s.stale = true →
    let dropped := { s with now := t, timer := checkAt s t, stale := false }
    (s.fsm = .receivingApplicationByte →
      (TimerDue s .sample t →
        step s = .next { dropped with op := .recvArmed, curBit := none }) ∧
      (TimerDue s .holdEnd t →
        step s = .next { dropped with op := .recvArmed, curBit := none, driveLow := false })) ∧
    (∀ p : PendingSend, s.fsm = .sendingBytes → s.txSrc = some .client → s.ps = some p → p.InRange →
      let b := payloadBit s p.payload
      (TimerDue s .sample t →
        step s = .next { dropped with op := sendOp b, curBit := some b }) ∧
      (TimerDue s .holdEnd t →
        step s = .next { dropped with op := sendOp b, curBit := some b, driveLow := false }))

/-- R227: the two sends of a search round, at the end of a held 0 or at the falling edge that completes
a 1: after the true bit the complement is armed, after the complement the receive of the direction. The
place of the reset check is the spec's decision (92_eei_decisions.md D27), its representation of the
round is D10. -/
def Obligations.SearchSendsTrueThenComplement : Prop :=
  ∀ s : State, s.fsm = .searchingRom → s.stale = false →
    let b := !romBit s.searchIdx s
    (∀ t, TimerDue s .holdEnd t →
      let done := { s with now := t, driveLow := false, timer := checkAt s t }
      (s.searchPhase = .sendTrue →
        step s = .next { done with
          searchPhase := .sendComplement, op := sendOp b, curBit := some b }) ∧
      (s.searchPhase = .sendComplement →
        step s = .next { done with
          searchPhase := .recvDirection, op := .recvArmed, curBit := none })) ∧
    (EdgeDue s false → s.enabled = true → s.op = .send1Armed →
      let done := { s with
        lineSeen := false, lowStart := some s.now
        timer := some ⟨s.now + effectiveDelay s.cfg s.cfg.tResetCheck, .resetCheck⟩ }
      (s.searchPhase = .sendTrue →
        step s = .next { done with
          searchPhase := .sendComplement, op := sendOp b, curBit := some b }) ∧
      (s.searchPhase = .sendComplement →
        step s = .next { done with
          searchPhase := .recvDirection, op := .recvArmed, curBit := none }))

/-- R228: the master's direction bit of a search round: a lost round, the last round won, another round
won. The place of the reset check is the spec's decision (92_eei_decisions.md D27). -/
def Obligations.SearchDirectionReceived : Prop :=
  ∀ (s : State) (t : Nat), TimerDue s .sample t → s.fsm = .searchingRom → s.stale = false →
    s.ps = none →
    let done := { s with now := t, timer := checkAt s t }
    (s.line ≠ romBit s.searchIdx s → step s = .next (backToWaiting done [])) ∧
    (s.line = romBit s.searchIdx s → s.searchIdx = 63 →
      step s = .next (backToWaiting { done with searchIdx := 0 } [])) ∧
    (s.line = romBit s.searchIdx s → s.searchIdx.toNat < 63 →
      step s =
        let b := romBit (s.searchIdx + 1) s
        .next { done with
          searchIdx := s.searchIdx + 1, searchPhase := .sendTrue, op := sendOp b, curBit := some b })

/-- R220: a byte of Match ROM before the eighth is stored at its place, every other byte of the buffer
stays, and reception goes on. The place of the reset check is the spec's decision (92_eei_decisions.md
D27). -/
def Obligations.MatchByteStored : Prop :=
  ∀ (s : State) (t : Nat), TimerDue s .sample t → s.fsm = .matchingRom → s.stale = false →
    s.rxBit = 7 → s.rxByte.toNat < 7 →
    ∃ buf : Bytes8,
      step s = .next { s with
        now := t, timer := checkAt s t, op := .recvArmed, curBit := none, rxAcc := 0, rxBit := 0
        rxByte := s.rxByte + 1, rxBuf := buf } ∧
      ∀ k : BitVec 3, byteAt buf k =
        if k.toNat = s.rxByte.toNat then s.rxAcc ||| (if s.line then 0x80 else 0x00)
        else byteAt s.rxBuf k

/-- R221: after the eighth byte all eight are compared with the identity; equal sets `resume_allowed`
and enters the application byte loop, different clears it and leaves silently. That a mismatch clears
`resume_allowed` is the spec's decision (92_eei_decisions.md D9). -/
def Obligations.MatchCompareDecides : Prop :=
  ∀ (s : State) (t : Nat), TimerDue s .sample t → s.fsm = .matchingRom → s.stale = false →
    s.rxBit = 7 → s.rxByte = 7 → s.ps = none →
    let v := s.rxAcc ||| (if s.line then 0x80 else 0x00)
    let done := { s with
      now := t, timer := checkAt s t, rxAcc := 0, rxBit := 0, rxByte := 8
      rxBuf := { s.rxBuf with b7 := v } }
    (({ s.rxBuf with b7 := v } : Bytes8) = s.rom →
      step s = .next (inFreshByte { done with resumeAllowed := true })) ∧
    (({ s.rxBuf with b7 := v } : Bytes8) ≠ s.rom →
      step s = .next (backToWaiting { done with resumeAllowed := false } []))

/-- R186 and R187: a bit of a client send has gone out, a 1 at its falling edge or a 0 at the end of its
hold. Of a byte send the next bit is read from the client's memory and armed, and after the last bit the
send completes with `SendDone(0)` and reception resumes; a repeating bit is armed again, and a single bit
completes in the same way. When the TX byte is read is the spec's decision (92_eei_decisions.md D16), the
place of the reset check D27, the repeated bit D29. -/
def Obligations.ClientByteSendAdvances : Prop :=
  ∀ (s done : State) (hasCb : Bool), SlotSent s done →
    s.fsm = .sendingBytes → s.txSrc = some .client → s.stale = false →
    let completed := inFreshByte { done with
      ps := none, out := s.out ++ (if hasCb then [⟨done.now, .sendDone false⟩] else []) }
    (∀ (buf len byteCur : Nat) (bitCur : BitVec 3),
      s.ps = some ⟨.bytes buf len byteCur bitCur, hasCb⟩ → byteCur < len →
      (bitCur.toNat < 7 →
        step s =
          let b := (Memory.read s.tx (buf + byteCur)).getLsbD (bitCur.toNat + 1)
          .next { done with
            ps := some ⟨.bytes buf len byteCur (bitCur + 1), hasCb⟩
            op := sendOp b, curBit := some b }) ∧
      (bitCur = 7 → byteCur + 1 < len →
        step s =
          let b := (Memory.read s.tx (buf + byteCur + 1)).getLsbD 0
          .next { done with
            ps := some ⟨.bytes buf len (byteCur + 1) 0, hasCb⟩, op := sendOp b, curBit := some b }) ∧
      (bitCur = 7 → byteCur + 1 = len → step s = .next completed)) ∧
    (∀ value again : Bool, s.ps = some ⟨.bit value again, hasCb⟩ →
      (again = true → step s = .next { done with op := sendOp value, curBit := some value }) ∧
      (again = false → step s = .next completed))

/-! ### ROM commands -/

/-- R211, R226: SEARCH_ROM starts a search with the true bit of round 0, bit 0 of `rom[0]`, whatever
`alarmed` is. The representation of the search state is the spec's decision (92_eei_decisions.md D10). -/
def Obligations.SearchRomResult : Prop :=
  ∀ s : State, exec .searchRom s =
    let b := s.rom.b0.getLsbD 0
    .next { s with
      fsm := .searchingRom, searchIdx := 0, searchPhase := .sendTrue, op := sendOp b, curBit := some b }

/-- R212: COND_SEARCH is SEARCH_ROM if `alarmed` is 1, and otherwise leaves the transaction silently.
That a declined search is silent is the spec's decision (92_eei_decisions.md D23). -/
def Obligations.CondSearchResult : Prop :=
  ∀ s : State,
    (s.alarmed = true → exec .condSearch s =
      let b := s.rom.b0.getLsbD 0
      .next { s with
        fsm := .searchingRom, searchIdx := 0, searchPhase := .sendTrue
        op := sendOp b, curBit := some b }) ∧
    (s.alarmed = false → exec .condSearch s = .next (backToWaiting s (cancelNotice s)))

/-- R213, R181: MATCH_ROM, 0x55, starts a receive of eight bytes. -/
def Obligations.MatchRomResult : Prop :=
  decode (.command 0x55) = .matchRom ∧
  ∀ s : State, exec .matchRom s = .next { s with
    fsm := .matchingRom, rxLen := 8, rxByte := 0, rxBit := 0, rxAcc := 0
    op := .recvArmed, curBit := none }

/-- R214, R230: SKIP_ROM, 0xCC, enters the application byte loop; `resume_allowed` is not changed. -/
def Obligations.SkipRomResult : Prop :=
  decode (.command 0xCC) = .skipRom ∧
  ∀ s : State, exec .skipRom s = .next (inFreshByte s)

/-- R215: READ_ROM arms the send of ROM bit 0, bit 0 of `rom[0]`, with the cursor at 0. The
representation of the ROM send is the spec's decision (92_eei_decisions.md D13). -/
def Obligations.ReadRomResult : Prop :=
  ∀ s : State, exec .readRom s =
    let b := s.rom.b0.getLsbD 0
    .next { s with
      fsm := .sendingBytes, txSrc := some .rom, txCur := 0, op := sendOp b, curBit := some b }

/-- R216: RESUME enters the application byte loop if `resume_allowed` is 1, and otherwise leaves
silently; the flag is not changed. That the flag is kept is the spec's decision (92_eei_decisions.md
D9). -/
def Obligations.ResumeResult : Prop :=
  ∀ s : State,
    (s.resumeAllowed = true → exec .resume s = .next (inFreshByte s)) ∧
    (s.resumeAllowed = false → exec .resume s = .next (backToWaiting s (cancelNotice s)))

/-- R217, R285: an unknown command runs the error path: `Diag(2)`, the armed send failed, `Event(Error,
0)`, in this order, and back to WaitingForReset. The path of the two other faults differs only in the
code of the diagnostic (R281). The codes are the spec's own (92_eei_decisions.md D41). -/
def Obligations.UnknownCommandTakesErrorPath : Prop :=
  ∀ (s : State) (v : Byte),
    let path := fun code : Nat =>
      backToWaiting s (⟨s.now, .diag code⟩ :: (cancelNotice s ++ eventNotice s .error 0))
    exec (.unknownCommand v) s = .next (path 2) ∧
    raiseError .resetTooLong s = path 1 ∧ raiseError .bitTransferError s = path 3

/-! ### Client operations -/

/-- R251: BEGIN, from any state, enabled or not: the identity with the checksum of its first seven
bytes, the eighth byte and the pin ignored, the flags cleared, WaitingForReset, no notification. What
`begin` clears and keeps is the spec's decision (92_eei_decisions.md D8, D34, D35). -/
def Obligations.BeginResult : Prop :=
  ∀ (s : State) (r : Bytes7) (eighth : Option Byte) (pin : Nat),
    exec (.beginOp r eighth pin) s = .next { s with
      rom := ⟨r.b0, r.b1, r.b2, r.b3, r.b4, r.b5, r.b6,
        crc8 [r.b0, r.b1, r.b2, r.b3, r.b4, r.b5, r.b6]⟩
      alarmed := false, resumeAllowed := false, searchPhase := .sendTrue, searchIdx := 0
      ps := none, stale := false, driveLow := false, timer := none, lowStart := none
      op := .idle, curBit := none, txSrc := none, fsm := .waitingForReset, enabled := true }

/-- R252: END while enabled releases, disarms and drops, with no notification; while disabled it changes
nothing. That an armed send is dropped without `SendDone` is the spec's decision (92_eei_decisions.md
D36). -/
def Obligations.EndResult : Prop :=
  ∀ s : State,
    (s.enabled = true → exec .endOp s = .next { s with
      enabled := false, fsm := .disabled, timer := none, driveLow := false, ps := none, op := .idle
      curBit := none, stale := false, txSrc := none, lowStart := none }) ∧
    (s.enabled = false → exec .endOp s = .next s)

/-- R253, R254, R255: the three configuration operations write their one bit, in any state. R102: the
codes that are not operations change nothing (notes/assumptions/8.md). That the registrations act in
every state and survive `begin` and `end` is the spec's decision (92_eei_decisions.md D15). -/
def Obligations.ConfigurationResults : Prop :=
  ∀ (s : State) (v : Bool) (c : BitVec 4),
    exec (.setRecvCb v) s = .next { s with recvCbEn := v } ∧
    exec (.setBitCb v) s = .next { s with bitCbEn := v } ∧
    exec (.alarmed v) s = .next { s with alarmed := v } ∧
    exec (.clientReserved c) s = .next s

/-- R256: WRITE of a non-empty buffer in the application byte loop fails the previous send, arms the new
one at bit 0 of byte 0, and takes the next slot, or the one after an operation in flight. Which slot the
send takes is the spec's decision (92_eei_decisions.md D14), when a byte is read D16. -/
def Obligations.WriteResult : Prop :=
  ∀ (s : State) (a len : Nat) (hasCb : Bool),
    s.enabled = true → InLoop s → 0 < len →
    let b := (Memory.read s.tx a).getLsbD 0
    let queued := { s with
      ps := some ⟨.bytes a len 0 0, hasCb⟩, fsm := .sendingBytes, txSrc := some .client
      rxAcc := if s.fsm = Fsm.receivingApplicationByte then 0 else s.rxAcc
      rxBit := if s.fsm = Fsm.receivingApplicationByte then 0 else s.rxBit
      out := s.out ++ cancelNotice s }
    exec (.write (some a) len hasCb) s =
      if s.op.armed then .next { queued with op := sendOp b, curBit := some b }
      else .next { queued with stale := true }

/-- R257: WRITE_BIT in the application byte loop, in the same way with its one bit. Which slot the bit
takes is the spec's decision (92_eei_decisions.md D14). -/
def Obligations.WriteBitResult : Prop :=
  ∀ (s : State) (value again hasCb : Bool),
    s.enabled = true → InLoop s →
    let queued := { s with
      ps := some ⟨.bit value again, hasCb⟩, fsm := .sendingBytes, txSrc := some .client
      rxAcc := if s.fsm = Fsm.receivingApplicationByte then 0 else s.rxAcc
      rxBit := if s.fsm = Fsm.receivingApplicationByte then 0 else s.rxBit
      out := s.out ++ cancelNotice s }
    exec (.writeBit value again hasCb) s =
      if s.op.armed then .next { queued with op := sendOp value, curBit := some value }
      else .next { queued with stale := true }

/-- R258: STOP_WRITE and the empty WRITE (length 0 or null buffer) while a client send is armed fail it
and resume reception at bit 0 of a fresh byte; a held 0 finishes and is then dropped. That an empty send
never produces a `SendDone` of its own is the spec's decision (92_eei_decisions.md D37). -/
def Obligations.StopWriteResult : Prop :=
  ∀ (s : State) (i : Instr),
    (i = .stopWrite ∨ (∃ len h, i = .write none len h) ∨ ∃ buf h, i = .write buf 0 h) →
    s.enabled = true → s.fsm = .sendingBytes → s.txSrc = some .client →
    let stopped := { s with
      ps := none, fsm := .receivingApplicationByte, txSrc := none, rxLen := 1, rxByte := 0
      rxBit := 0, rxAcc := 0, out := s.out ++ cancelNotice s }
    ((s.op = .send1Armed ∨ s.op = .send0Armed) →
      exec i s = .next { stopped with op := .recvArmed, curBit := none }) ∧
    (s.op = .send0Holding → exec i s = .next { stopped with stale := true }) ∧
    (s.op = .recvSampling → exec i s = .next stopped)

/-- R258, R259, R260: STOP_WRITE and the empty WRITE change nothing where no client send is armed: in
the loop while receiving, outside the loop, and while disabled. These are the spec's decisions
(92_eei_decisions.md D37, D38, D39). -/
def Obligations.StopWriteWithoutSendDoesNothing : Prop :=
  ∀ (s : State) (i : Instr),
    (i = .stopWrite ∨ (∃ len h, i = .write none len h) ∨ ∃ buf h, i = .write buf 0 h) →
    (s.enabled = false ∨ ¬ InLoop s ∨ (s.fsm = .receivingApplicationByte ∧ s.ps = none)) →
    exec i s = .next s

/-- R259, R260: a WRITE of a non-empty buffer or a WRITE_BIT outside the application byte loop changes
no state of the block and is answered `SendDone(1)` if it has a callback; while disabled nothing at all
happens. Both are the spec's decisions (92_eei_decisions.md D38, D39). -/
def Obligations.SendOutsideLoopIsRefused : Prop :=
  ∀ (s : State) (i : Instr) (hasCb : Bool),
    ((∃ a len, 0 < len ∧ i = .write (some a) len hasCb) ∨
      ∃ value again, i = .writeBit value again hasCb) →
    (s.enabled = true → ¬ InLoop s →
      exec i s = .next { s with
        out := s.out ++ (if hasCb then [⟨s.now, .sendDone true⟩] else []) }) ∧
    (s.enabled = false → exec i s = .next s)

/-- R261: CRC8 returns the checksum of its bytes (R121), in any state, and changes nothing else. That the
value stands in the field `result` is the model's choice (notes/assumptions/16.md). The second clause says
that the byte `crcOfSerial` computes is the same function's value; that `begin` stores it is BeginResult. -/
def Obligations.ChecksumResult : Prop :=
  ∀ (s : State) (m : List Byte) (r : Bytes7),
    exec (.crc8 m) s = .next { s with result := some (crc8 m) } ∧
    crcOfSerial r = crc8 [r.b0, r.b1, r.b2, r.b3, r.b4, r.b5, r.b6]

/-! ### Frames -/

/-- What a ROM command leaves unchanged: the identity, the flags, the edge record, the callback enables,
the match buffer, every byte of the client's memory, and everything outside the block but the
notifications. -/
def Obligations.RomCommandFrame : Prop :=
  ∀ (s t : State) (i : Instr),
    (i = .searchRom ∨ i = .condSearch ∨ i = .readRom ∨ i = .matchRom ∨ i = .skipRom ∨ i = .resume ∨
      ∃ v, i = .unknownCommand v) →
    exec i s = .next t →
    t.enabled = s.enabled ∧ t.apPhase = s.apPhase ∧ t.rom = s.rom ∧ t.alarmed = s.alarmed ∧
    t.resumeAllowed = s.resumeAllowed ∧ t.rxBuf = s.rxBuf ∧ t.lowStart = s.lowStart ∧
    t.recvCbEn = s.recvCbEn ∧ t.bitCbEn = s.bitCbEn ∧
    (i ≠ .searchRom → i ≠ .condSearch →
      t.searchPhase = s.searchPhase ∧ t.searchIdx = s.searchIdx) ∧
    (i ≠ .readRom → t.txCur = s.txCur) ∧
    (∀ a, Memory.read t.tx a = Memory.read s.tx a) ∧
    t.cfg = s.cfg ∧ t.now = s.now ∧ t.ext = s.ext ∧ t.lineSeen = s.lineSeen ∧
    t.inputs = s.inputs ∧ t.reactions = s.reactions ∧ t.result = s.result ∧ t.ties = s.ties

/-- What a client operation leaves unchanged: the cursors of Match ROM's buffer, Read ROM and the presence
phase always; the identity but for BEGIN; the flags but for BEGIN and ALARMED; the timer but for BEGIN
and END; the enables but for their own operations; every byte of the client's memory. -/
def Obligations.ClientOperationFrame : Prop :=
  ∀ (s t : State) (req : ClientReq), exec (decode (.client req)) s = .next t →
    t.apPhase = s.apPhase ∧ t.rxBuf = s.rxBuf ∧ t.txCur = s.txCur ∧
    (req.code ≠ 0 → t.rom = s.rom ∧ t.resumeAllowed = s.resumeAllowed ∧
      t.searchPhase = s.searchPhase ∧ t.searchIdx = s.searchIdx) ∧
    (req.code ≠ 0 → req.code ≠ 1 →
      t.enabled = s.enabled ∧ t.timer = s.timer ∧ t.driveLow = s.driveLow ∧ t.lowStart = s.lowStart) ∧
    (req.code ≠ 0 → req.code ≠ 4 → t.alarmed = s.alarmed) ∧
    (req.code ≠ 2 → t.recvCbEn = s.recvCbEn) ∧ (req.code ≠ 3 → t.bitCbEn = s.bitCbEn) ∧
    (req.code ≠ 5 → req.code ≠ 6 → req.code ≠ 7 → t.out = s.out) ∧
    (req.code ≠ 8 → t.result = s.result) ∧
    (∀ a, Memory.read t.tx a = Memory.read s.tx a) ∧
    t.cfg = s.cfg ∧ t.now = s.now ∧ t.ext = s.ext ∧ t.lineSeen = s.lineSeen ∧
    t.inputs = s.inputs ∧ t.reactions = s.reactions ∧ t.ties = s.ties

/-! ### The whole machine -/

/-- R321: the block after power-on reset, field by field; `rom` and `rx_buf` are unspecified there and
are left out. The values are the spec's choice (92_eei_decisions.md D42). -/
def Obligations.PowerOnState : Prop :=
  let b := State.reset.toBlock
  b.enabled = false ∧ b.fsm = .disabled ∧ b.apPhase = .wait ∧ b.alarmed = false ∧
  b.resumeAllowed = false ∧ b.searchPhase = .sendTrue ∧ b.searchIdx = 0 ∧ b.rxAcc = 0 ∧
  b.rxBit = 0 ∧ b.rxByte = 0 ∧ b.rxLen = 1 ∧ b.op = .idle ∧ b.curBit = none ∧ b.stale = false ∧
  b.timer = none ∧ b.driveLow = false ∧ b.lowStart = none ∧ b.ps = none ∧ b.txSrc = none ∧
  b.txCur = 0 ∧ b.recvCbEn = false ∧ b.bitCbEn = false

/-- The invariant holds after power-on reset, with the parameters and the zeros the model gives it there
(notes/assumptions/1.md, 5.md and 6.md). -/
def Obligations.InvariantAtReset : Prop := Inv State.reset

/-- The invariant of R41 is kept by every step from every state that has it. The spec derives R41 by
inspection of every writer; the further fields of `Inv` are the model's reading of R22 to R37
(Safety.lean). -/
def Obligations.StepKeepsInvariant : Prop :=
  ∀ s t : State, Inv s → step s = .next t → Inv t

/-- No state with the invariant stops the machine: its step answers a next state. So none of the named
faults of the model can be reached from such a state. The faults are the model's
(notes/assumptions/11.md). -/
def Obligations.InvariantStepAlwaysGoesOn : Prop :=
  ∀ s : State, Inv s → ∃ t, step s = .next t

/-- R200: `fsm` moves only as table T-FSM lists: by `begin` to WaitingForReset, by `end` to Disabled, and
otherwise along a row of the protocol. -/
def Obligations.FsmMovesAreTheTable : Prop :=
  ∀ s t : State, Inv s → step s = .next t → t.fsm ≠ s.fsm →
    ((∃ r e p, ClientTurn s (.beginOp r e p)) ∧ t.fsm = .waitingForReset) ∨
    (ClientTurn s .endOp ∧ t.fsm = .disabled) ∨
    (s.fsm, t.fsm) ∈ fsmMoves

/-- R24: the identity is written by `begin` alone. -/
def Obligations.IdentityWrittenOnlyByBegin : Prop :=
  ∀ s t : State, step s = .next t → t.rom ≠ s.rom →
    ∃ r e p, ClientTurn s (.beginOp r e p) ∧ t.rom = identityOf r

/-- R25, R26, R38: the writers of the flags. `alarmed` is written by `begin` and ALARMED;
`resume_allowed` is cleared by `begin`, and otherwise written only by the step that completes a Match
ROM, the eighth Sample of its eighth byte (90_conflicts.md C3), as the compare decides; the callback enables are written only by their own operations. The writers are the spec's decisions
(92_eei_decisions.md D8, D9, D15). -/
def Obligations.FlagWriters : Prop :=
  ∀ s t : State, step s = .next t →
    (t.alarmed ≠ s.alarmed →
      (∃ r e p, ClientTurn s (.beginOp r e p) ∧ t.alarmed = false) ∨
      ∃ v, ClientTurn s (.alarmed v) ∧ t.alarmed = v) ∧
    (t.resumeAllowed ≠ s.resumeAllowed →
      (∃ r e p, ClientTurn s (.beginOp r e p) ∧ t.resumeAllowed = false) ∨
      (s.fsm = .matchingRom ∧ s.rxByte = 7 ∧ s.rxBit = 7 ∧ s.stale = false ∧
        (∃ d, nextEvent s = .timer ⟨d, .sample⟩) ∧
        (t.resumeAllowed = true ↔ t.rxBuf = t.rom))) ∧
    (t.recvCbEn = s.recvCbEn ∨ ClientTurn s (.setRecvCb t.recvCbEn)) ∧
    (t.bitCbEn = s.bitCbEn ∨ ClientTurn s (.setBitCb t.bitCbEn))

/-- R60, R63: the block never writes the client's memory. A byte of it changes only in the step of a
store by the client, at that store's address, to that store's value. The store by the client is the
model's input (notes/assumptions/12.md). -/
def Obligations.BlockNeverWritesTx : Prop :=
  ∀ s t : State, Memory.wf s.tx = true → step s = .next t →
    (∀ a, Memory.read t.tx a = Memory.read s.tx a) ∨
    ∃ addr v, nextClientAct s = some (.store addr v) ∧
      ∀ a, Memory.read t.tx a = if a = addr then v else Memory.read s.tx a

/-- Notifications are appended, never changed or withdrawn, each stamped with the time of its step (R15,
R67); time never runs backwards and the parameters never change. The list of notifications is the
model's own field (notes/assumptions/6.md); that time is monotone in every state, also where an input or
a deadline lies in the past, is the model's choice (notes/assumptions/10.md), and so is a parameter as a
field that no step changes (notes/assumptions/1.md). -/
def Obligations.NotificationsOnlyAppended : Prop :=
  ∀ s t : State, step s = .next t →
    s.now ≤ t.now ∧ t.cfg = s.cfg ∧
    ∃ new : List Emission, t.out = s.out ++ new ∧ ∀ e ∈ new, e.time = t.now

/-- R22, R324: while disabled the block does not drive the line and no step makes a notification; no step
but a client operation changes the block. -/
def Obligations.DisabledIsSilent : Prop :=
  ∀ s t : State, Inv s → s.enabled = false → step s = .next t →
    s.driveLow = false ∧ t.driveLow = false ∧ t.out = s.out ∧
    (t.toBlock = s.toBlock ∨ ∃ i, ClientTurn s i)

/-- R75, R34: the block pulls the line low only while it holds a 0 or makes its presence pulse, and then
the line is low whatever the environment does. The spec derives R34 from the writers. Here the first part
is read off the invariant, whose field it is: what makes R34 hold of the block is that every step keeps
the invariant, StepKeepsInvariant; the rest is the wired-AND of R75 (92_eei_decisions.md D17). -/
def Obligations.LineDrivenLowOnlyWhenHolding : Prop :=
  ∀ s : State, Inv s →
    (s.driveLow = true → s.line = false ∧
      (s.op = .send0Holding ∨ (s.fsm = .assertingPresence ∧ s.apPhase = .pulse))) ∧
    (s.driveLow = false → s.line = s.ext)

/-- R136: the block schedules only into an empty timer slot. Where the timer is armed after a step and not
as before, it was empty before, or the step was its firing, or the step was the rising edge that
cancelled a reset check. -/
def Obligations.TimerNeverOverwritten : Prop :=
  ∀ s t : State, Inv s → step s = .next t → t.timer ≠ s.timer → t.timer.isSome = true →
    s.timer = none ∨ (∃ e, nextEvent s = .timer e ∧ s.timer = some e) ∨
    (EdgeDue s true ∧ ∃ d, s.timer = some ⟨d, .resetCheck⟩)
end

