-- ==== Sys2Proof/Laws/State.lean ====
section
/-! SUPPORT. What each shared update leaves in each field: one lemma for each field, true by `rfl`.
`toEnv` stands for all the fields of `Env` at once, `toBlock` for all those of `Block`. -/

namespace Sys2Proof.Machine


/-! ### `timerSchedule` (R131) -/

@[simp] theorem timerSchedule_toEnv (d : Nat) (cb : Callback) (s : State) :
    (timerSchedule d cb s).toEnv = s.toEnv := rfl
@[simp] theorem timerSchedule_enabled (d : Nat) (cb : Callback) (s : State) :
    (timerSchedule d cb s).enabled = s.enabled := rfl
@[simp] theorem timerSchedule_fsm (d : Nat) (cb : Callback) (s : State) :
    (timerSchedule d cb s).fsm = s.fsm := rfl
@[simp] theorem timerSchedule_apPhase (d : Nat) (cb : Callback) (s : State) :
    (timerSchedule d cb s).apPhase = s.apPhase := rfl
@[simp] theorem timerSchedule_rom (d : Nat) (cb : Callback) (s : State) :
    (timerSchedule d cb s).rom = s.rom := rfl
@[simp] theorem timerSchedule_alarmed (d : Nat) (cb : Callback) (s : State) :
    (timerSchedule d cb s).alarmed = s.alarmed := rfl
@[simp] theorem timerSchedule_resumeAllowed (d : Nat) (cb : Callback) (s : State) :
    (timerSchedule d cb s).resumeAllowed = s.resumeAllowed := rfl
@[simp] theorem timerSchedule_searchPhase (d : Nat) (cb : Callback) (s : State) :
    (timerSchedule d cb s).searchPhase = s.searchPhase := rfl
@[simp] theorem timerSchedule_searchIdx (d : Nat) (cb : Callback) (s : State) :
    (timerSchedule d cb s).searchIdx = s.searchIdx := rfl
@[simp] theorem timerSchedule_rxAcc (d : Nat) (cb : Callback) (s : State) :
    (timerSchedule d cb s).rxAcc = s.rxAcc := rfl
@[simp] theorem timerSchedule_rxBit (d : Nat) (cb : Callback) (s : State) :
    (timerSchedule d cb s).rxBit = s.rxBit := rfl
@[simp] theorem timerSchedule_rxByte (d : Nat) (cb : Callback) (s : State) :
    (timerSchedule d cb s).rxByte = s.rxByte := rfl
@[simp] theorem timerSchedule_rxLen (d : Nat) (cb : Callback) (s : State) :
    (timerSchedule d cb s).rxLen = s.rxLen := rfl
@[simp] theorem timerSchedule_rxBuf (d : Nat) (cb : Callback) (s : State) :
    (timerSchedule d cb s).rxBuf = s.rxBuf := rfl
@[simp] theorem timerSchedule_op (d : Nat) (cb : Callback) (s : State) :
    (timerSchedule d cb s).op = s.op := rfl
@[simp] theorem timerSchedule_curBit (d : Nat) (cb : Callback) (s : State) :
    (timerSchedule d cb s).curBit = s.curBit := rfl
@[simp] theorem timerSchedule_stale (d : Nat) (cb : Callback) (s : State) :
    (timerSchedule d cb s).stale = s.stale := rfl
@[simp] theorem timerSchedule_timer (d : Nat) (cb : Callback) (s : State) :
    (timerSchedule d cb s).timer = some ⟨s.now + effectiveDelay s.cfg d, cb⟩ := rfl
@[simp] theorem timerSchedule_driveLow (d : Nat) (cb : Callback) (s : State) :
    (timerSchedule d cb s).driveLow = s.driveLow := rfl
@[simp] theorem timerSchedule_lowStart (d : Nat) (cb : Callback) (s : State) :
    (timerSchedule d cb s).lowStart = s.lowStart := rfl
@[simp] theorem timerSchedule_ps (d : Nat) (cb : Callback) (s : State) :
    (timerSchedule d cb s).ps = s.ps := rfl
@[simp] theorem timerSchedule_txSrc (d : Nat) (cb : Callback) (s : State) :
    (timerSchedule d cb s).txSrc = s.txSrc := rfl
@[simp] theorem timerSchedule_txCur (d : Nat) (cb : Callback) (s : State) :
    (timerSchedule d cb s).txCur = s.txCur := rfl
@[simp] theorem timerSchedule_recvCbEn (d : Nat) (cb : Callback) (s : State) :
    (timerSchedule d cb s).recvCbEn = s.recvCbEn := rfl
@[simp] theorem timerSchedule_bitCbEn (d : Nat) (cb : Callback) (s : State) :
    (timerSchedule d cb s).bitCbEn = s.bitCbEn := rfl

/-! ### `timerCancel` (R132) -/

@[simp] theorem timerCancel_toEnv (s : State) : (timerCancel s).toEnv = s.toEnv := rfl
@[simp] theorem timerCancel_enabled (s : State) : (timerCancel s).enabled = s.enabled := rfl
@[simp] theorem timerCancel_fsm (s : State) : (timerCancel s).fsm = s.fsm := rfl
@[simp] theorem timerCancel_apPhase (s : State) : (timerCancel s).apPhase = s.apPhase := rfl
@[simp] theorem timerCancel_rom (s : State) : (timerCancel s).rom = s.rom := rfl
@[simp] theorem timerCancel_alarmed (s : State) : (timerCancel s).alarmed = s.alarmed := rfl
@[simp] theorem timerCancel_resumeAllowed (s : State) :
    (timerCancel s).resumeAllowed = s.resumeAllowed := rfl
@[simp] theorem timerCancel_searchPhase (s : State) :
    (timerCancel s).searchPhase = s.searchPhase := rfl
@[simp] theorem timerCancel_searchIdx (s : State) : (timerCancel s).searchIdx = s.searchIdx := rfl
@[simp] theorem timerCancel_rxAcc (s : State) : (timerCancel s).rxAcc = s.rxAcc := rfl
@[simp] theorem timerCancel_rxBit (s : State) : (timerCancel s).rxBit = s.rxBit := rfl
@[simp] theorem timerCancel_rxByte (s : State) : (timerCancel s).rxByte = s.rxByte := rfl
@[simp] theorem timerCancel_rxLen (s : State) : (timerCancel s).rxLen = s.rxLen := rfl
@[simp] theorem timerCancel_rxBuf (s : State) : (timerCancel s).rxBuf = s.rxBuf := rfl
@[simp] theorem timerCancel_op (s : State) : (timerCancel s).op = s.op := rfl
@[simp] theorem timerCancel_curBit (s : State) : (timerCancel s).curBit = s.curBit := rfl
@[simp] theorem timerCancel_stale (s : State) : (timerCancel s).stale = s.stale := rfl
@[simp] theorem timerCancel_timer (s : State) : (timerCancel s).timer = none := rfl
@[simp] theorem timerCancel_driveLow (s : State) : (timerCancel s).driveLow = s.driveLow := rfl
@[simp] theorem timerCancel_lowStart (s : State) : (timerCancel s).lowStart = s.lowStart := rfl
@[simp] theorem timerCancel_ps (s : State) : (timerCancel s).ps = s.ps := rfl
@[simp] theorem timerCancel_txSrc (s : State) : (timerCancel s).txSrc = s.txSrc := rfl
@[simp] theorem timerCancel_txCur (s : State) : (timerCancel s).txCur = s.txCur := rfl
@[simp] theorem timerCancel_recvCbEn (s : State) : (timerCancel s).recvCbEn = s.recvCbEn := rfl
@[simp] theorem timerCancel_bitCbEn (s : State) : (timerCancel s).bitCbEn = s.bitCbEn := rfl

/-! ### `armRecv` (R146) -/

@[simp] theorem armRecv_toEnv (s : State) : (armRecv s).toEnv = s.toEnv := rfl
@[simp] theorem armRecv_enabled (s : State) : (armRecv s).enabled = s.enabled := rfl
@[simp] theorem armRecv_fsm (s : State) : (armRecv s).fsm = s.fsm := rfl
@[simp] theorem armRecv_apPhase (s : State) : (armRecv s).apPhase = s.apPhase := rfl
@[simp] theorem armRecv_rom (s : State) : (armRecv s).rom = s.rom := rfl
@[simp] theorem armRecv_alarmed (s : State) : (armRecv s).alarmed = s.alarmed := rfl
@[simp] theorem armRecv_resumeAllowed (s : State) :
    (armRecv s).resumeAllowed = s.resumeAllowed := rfl
@[simp] theorem armRecv_searchPhase (s : State) : (armRecv s).searchPhase = s.searchPhase := rfl
@[simp] theorem armRecv_searchIdx (s : State) : (armRecv s).searchIdx = s.searchIdx := rfl
@[simp] theorem armRecv_rxAcc (s : State) : (armRecv s).rxAcc = s.rxAcc := rfl
@[simp] theorem armRecv_rxBit (s : State) : (armRecv s).rxBit = s.rxBit := rfl
@[simp] theorem armRecv_rxByte (s : State) : (armRecv s).rxByte = s.rxByte := rfl
@[simp] theorem armRecv_rxLen (s : State) : (armRecv s).rxLen = s.rxLen := rfl
@[simp] theorem armRecv_rxBuf (s : State) : (armRecv s).rxBuf = s.rxBuf := rfl
@[simp] theorem armRecv_op (s : State) : (armRecv s).op = .recvArmed := rfl
@[simp] theorem armRecv_curBit (s : State) : (armRecv s).curBit = none := rfl
@[simp] theorem armRecv_stale (s : State) : (armRecv s).stale = s.stale := rfl
@[simp] theorem armRecv_timer (s : State) : (armRecv s).timer = s.timer := rfl
@[simp] theorem armRecv_driveLow (s : State) : (armRecv s).driveLow = s.driveLow := rfl
@[simp] theorem armRecv_lowStart (s : State) : (armRecv s).lowStart = s.lowStart := rfl
@[simp] theorem armRecv_ps (s : State) : (armRecv s).ps = s.ps := rfl
@[simp] theorem armRecv_txSrc (s : State) : (armRecv s).txSrc = s.txSrc := rfl
@[simp] theorem armRecv_txCur (s : State) : (armRecv s).txCur = s.txCur := rfl
@[simp] theorem armRecv_recvCbEn (s : State) : (armRecv s).recvCbEn = s.recvCbEn := rfl
@[simp] theorem armRecv_bitCbEn (s : State) : (armRecv s).bitCbEn = s.bitCbEn := rfl

/-! ### `armSend` (R147) -/

@[simp] theorem armSend_toEnv (b : Bool) (s : State) : (armSend b s).toEnv = s.toEnv := rfl
@[simp] theorem armSend_enabled (b : Bool) (s : State) : (armSend b s).enabled = s.enabled := rfl
@[simp] theorem armSend_fsm (b : Bool) (s : State) : (armSend b s).fsm = s.fsm := rfl
@[simp] theorem armSend_apPhase (b : Bool) (s : State) : (armSend b s).apPhase = s.apPhase := rfl
@[simp] theorem armSend_rom (b : Bool) (s : State) : (armSend b s).rom = s.rom := rfl
@[simp] theorem armSend_alarmed (b : Bool) (s : State) : (armSend b s).alarmed = s.alarmed := rfl
@[simp] theorem armSend_resumeAllowed (b : Bool) (s : State) :
    (armSend b s).resumeAllowed = s.resumeAllowed := rfl
@[simp] theorem armSend_searchPhase (b : Bool) (s : State) :
    (armSend b s).searchPhase = s.searchPhase := rfl
@[simp] theorem armSend_searchIdx (b : Bool) (s : State) :
    (armSend b s).searchIdx = s.searchIdx := rfl
@[simp] theorem armSend_rxAcc (b : Bool) (s : State) : (armSend b s).rxAcc = s.rxAcc := rfl
@[simp] theorem armSend_rxBit (b : Bool) (s : State) : (armSend b s).rxBit = s.rxBit := rfl
@[simp] theorem armSend_rxByte (b : Bool) (s : State) : (armSend b s).rxByte = s.rxByte := rfl
@[simp] theorem armSend_rxLen (b : Bool) (s : State) : (armSend b s).rxLen = s.rxLen := rfl
@[simp] theorem armSend_rxBuf (b : Bool) (s : State) : (armSend b s).rxBuf = s.rxBuf := rfl
@[simp] theorem armSend_op (b : Bool) (s : State) :
    (armSend b s).op = if b then .send1Armed else .send0Armed := rfl
@[simp] theorem armSend_curBit (b : Bool) (s : State) : (armSend b s).curBit = some b := rfl
@[simp] theorem armSend_stale (b : Bool) (s : State) : (armSend b s).stale = s.stale := rfl
@[simp] theorem armSend_timer (b : Bool) (s : State) : (armSend b s).timer = s.timer := rfl
@[simp] theorem armSend_driveLow (b : Bool) (s : State) : (armSend b s).driveLow = s.driveLow := rfl
@[simp] theorem armSend_lowStart (b : Bool) (s : State) : (armSend b s).lowStart = s.lowStart := rfl
@[simp] theorem armSend_ps (b : Bool) (s : State) : (armSend b s).ps = s.ps := rfl
@[simp] theorem armSend_txSrc (b : Bool) (s : State) : (armSend b s).txSrc = s.txSrc := rfl
@[simp] theorem armSend_txCur (b : Bool) (s : State) : (armSend b s).txCur = s.txCur := rfl
@[simp] theorem armSend_recvCbEn (b : Bool) (s : State) : (armSend b s).recvCbEn = s.recvCbEn := rfl
@[simp] theorem armSend_bitCbEn (b : Bool) (s : State) : (armSend b s).bitCbEn = s.bitCbEn := rfl

/-! ### `startReceive` (R181) -/

@[simp] theorem startReceive_toEnv (n : BitVec 4) (s : State) :
    (startReceive n s).toEnv = s.toEnv := rfl
@[simp] theorem startReceive_enabled (n : BitVec 4) (s : State) :
    (startReceive n s).enabled = s.enabled := rfl
@[simp] theorem startReceive_fsm (n : BitVec 4) (s : State) : (startReceive n s).fsm = s.fsm := rfl
@[simp] theorem startReceive_apPhase (n : BitVec 4) (s : State) :
    (startReceive n s).apPhase = s.apPhase := rfl
@[simp] theorem startReceive_rom (n : BitVec 4) (s : State) : (startReceive n s).rom = s.rom := rfl
@[simp] theorem startReceive_alarmed (n : BitVec 4) (s : State) :
    (startReceive n s).alarmed = s.alarmed := rfl
@[simp] theorem startReceive_resumeAllowed (n : BitVec 4) (s : State) :
    (startReceive n s).resumeAllowed = s.resumeAllowed := rfl
@[simp] theorem startReceive_searchPhase (n : BitVec 4) (s : State) :
    (startReceive n s).searchPhase = s.searchPhase := rfl
@[simp] theorem startReceive_searchIdx (n : BitVec 4) (s : State) :
    (startReceive n s).searchIdx = s.searchIdx := rfl
@[simp] theorem startReceive_rxAcc (n : BitVec 4) (s : State) : (startReceive n s).rxAcc = 0 := rfl
@[simp] theorem startReceive_rxBit (n : BitVec 4) (s : State) : (startReceive n s).rxBit = 0 := rfl
@[simp] theorem startReceive_rxByte (n : BitVec 4) (s : State) :
    (startReceive n s).rxByte = 0 := rfl
@[simp] theorem startReceive_rxLen (n : BitVec 4) (s : State) : (startReceive n s).rxLen = n := rfl
@[simp] theorem startReceive_rxBuf (n : BitVec 4) (s : State) :
    (startReceive n s).rxBuf = s.rxBuf := rfl
@[simp] theorem startReceive_op (n : BitVec 4) (s : State) :
    (startReceive n s).op = .recvArmed := rfl
@[simp] theorem startReceive_curBit (n : BitVec 4) (s : State) :
    (startReceive n s).curBit = none := rfl
@[simp] theorem startReceive_stale (n : BitVec 4) (s : State) :
    (startReceive n s).stale = s.stale := rfl
@[simp] theorem startReceive_timer (n : BitVec 4) (s : State) :
    (startReceive n s).timer = s.timer := rfl
@[simp] theorem startReceive_driveLow (n : BitVec 4) (s : State) :
    (startReceive n s).driveLow = s.driveLow := rfl
@[simp] theorem startReceive_lowStart (n : BitVec 4) (s : State) :
    (startReceive n s).lowStart = s.lowStart := rfl
@[simp] theorem startReceive_ps (n : BitVec 4) (s : State) : (startReceive n s).ps = s.ps := rfl
@[simp] theorem startReceive_txSrc (n : BitVec 4) (s : State) :
    (startReceive n s).txSrc = s.txSrc := rfl
@[simp] theorem startReceive_txCur (n : BitVec 4) (s : State) :
    (startReceive n s).txCur = s.txCur := rfl
@[simp] theorem startReceive_recvCbEn (n : BitVec 4) (s : State) :
    (startReceive n s).recvCbEn = s.recvCbEn := rfl
@[simp] theorem startReceive_bitCbEn (n : BitVec 4) (s : State) :
    (startReceive n s).bitCbEn = s.bitCbEn := rfl

/-! ### `enterAppLoop` (R230) -/

@[simp] theorem enterAppLoop_toEnv (s : State) : (enterAppLoop s).toEnv = s.toEnv := rfl
@[simp] theorem enterAppLoop_enabled (s : State) : (enterAppLoop s).enabled = s.enabled := rfl
@[simp] theorem enterAppLoop_fsm (s : State) :
    (enterAppLoop s).fsm = .receivingApplicationByte := rfl
@[simp] theorem enterAppLoop_apPhase (s : State) : (enterAppLoop s).apPhase = s.apPhase := rfl
@[simp] theorem enterAppLoop_rom (s : State) : (enterAppLoop s).rom = s.rom := rfl
@[simp] theorem enterAppLoop_alarmed (s : State) : (enterAppLoop s).alarmed = s.alarmed := rfl
@[simp] theorem enterAppLoop_resumeAllowed (s : State) :
    (enterAppLoop s).resumeAllowed = s.resumeAllowed := rfl
@[simp] theorem enterAppLoop_searchPhase (s : State) :
    (enterAppLoop s).searchPhase = s.searchPhase := rfl
@[simp] theorem enterAppLoop_searchIdx (s : State) : (enterAppLoop s).searchIdx = s.searchIdx := rfl
@[simp] theorem enterAppLoop_rxAcc (s : State) : (enterAppLoop s).rxAcc = 0 := rfl
@[simp] theorem enterAppLoop_rxBit (s : State) : (enterAppLoop s).rxBit = 0 := rfl
@[simp] theorem enterAppLoop_rxByte (s : State) : (enterAppLoop s).rxByte = 0 := rfl
@[simp] theorem enterAppLoop_rxLen (s : State) : (enterAppLoop s).rxLen = 1 := rfl
@[simp] theorem enterAppLoop_rxBuf (s : State) : (enterAppLoop s).rxBuf = s.rxBuf := rfl
@[simp] theorem enterAppLoop_op (s : State) : (enterAppLoop s).op = .recvArmed := rfl
@[simp] theorem enterAppLoop_curBit (s : State) : (enterAppLoop s).curBit = none := rfl
@[simp] theorem enterAppLoop_stale (s : State) : (enterAppLoop s).stale = s.stale := rfl
@[simp] theorem enterAppLoop_timer (s : State) : (enterAppLoop s).timer = s.timer := rfl
@[simp] theorem enterAppLoop_driveLow (s : State) : (enterAppLoop s).driveLow = s.driveLow := rfl
@[simp] theorem enterAppLoop_lowStart (s : State) : (enterAppLoop s).lowStart = s.lowStart := rfl
@[simp] theorem enterAppLoop_ps (s : State) : (enterAppLoop s).ps = s.ps := rfl
@[simp] theorem enterAppLoop_txSrc (s : State) : (enterAppLoop s).txSrc = none := rfl
@[simp] theorem enterAppLoop_txCur (s : State) : (enterAppLoop s).txCur = s.txCur := rfl
@[simp] theorem enterAppLoop_recvCbEn (s : State) : (enterAppLoop s).recvCbEn = s.recvCbEn := rfl
@[simp] theorem enterAppLoop_bitCbEn (s : State) : (enterAppLoop s).bitCbEn = s.bitCbEn := rfl

/-! ### `startSearch` (R226) -/

@[simp] theorem startSearch_toEnv (s : State) : (startSearch s).toEnv = s.toEnv := rfl
@[simp] theorem startSearch_enabled (s : State) : (startSearch s).enabled = s.enabled := rfl
@[simp] theorem startSearch_fsm (s : State) : (startSearch s).fsm = .searchingRom := rfl
@[simp] theorem startSearch_apPhase (s : State) : (startSearch s).apPhase = s.apPhase := rfl
@[simp] theorem startSearch_rom (s : State) : (startSearch s).rom = s.rom := rfl
@[simp] theorem startSearch_alarmed (s : State) : (startSearch s).alarmed = s.alarmed := rfl
@[simp] theorem startSearch_resumeAllowed (s : State) :
    (startSearch s).resumeAllowed = s.resumeAllowed := rfl
@[simp] theorem startSearch_searchPhase (s : State) : (startSearch s).searchPhase = .sendTrue := rfl
@[simp] theorem startSearch_searchIdx (s : State) : (startSearch s).searchIdx = 0 := rfl
@[simp] theorem startSearch_rxAcc (s : State) : (startSearch s).rxAcc = s.rxAcc := rfl
@[simp] theorem startSearch_rxBit (s : State) : (startSearch s).rxBit = s.rxBit := rfl
@[simp] theorem startSearch_rxByte (s : State) : (startSearch s).rxByte = s.rxByte := rfl
@[simp] theorem startSearch_rxLen (s : State) : (startSearch s).rxLen = s.rxLen := rfl
@[simp] theorem startSearch_rxBuf (s : State) : (startSearch s).rxBuf = s.rxBuf := rfl
@[simp] theorem startSearch_op (s : State) :
    (startSearch s).op = if romBit 0 s then .send1Armed else .send0Armed := rfl
@[simp] theorem startSearch_curBit (s : State) : (startSearch s).curBit = some (romBit 0 s) := rfl
@[simp] theorem startSearch_stale (s : State) : (startSearch s).stale = s.stale := rfl
@[simp] theorem startSearch_timer (s : State) : (startSearch s).timer = s.timer := rfl
@[simp] theorem startSearch_driveLow (s : State) : (startSearch s).driveLow = s.driveLow := rfl
@[simp] theorem startSearch_lowStart (s : State) : (startSearch s).lowStart = s.lowStart := rfl
@[simp] theorem startSearch_ps (s : State) : (startSearch s).ps = s.ps := rfl
@[simp] theorem startSearch_txSrc (s : State) : (startSearch s).txSrc = s.txSrc := rfl
@[simp] theorem startSearch_txCur (s : State) : (startSearch s).txCur = s.txCur := rfl
@[simp] theorem startSearch_recvCbEn (s : State) : (startSearch s).recvCbEn = s.recvCbEn := rfl
@[simp] theorem startSearch_bitCbEn (s : State) : (startSearch s).bitCbEn = s.bitCbEn := rfl

/-! ### `tearDown` (R252) -/

@[simp] theorem tearDown_toEnv (s : State) : (tearDown s).toEnv = s.toEnv := rfl
@[simp] theorem tearDown_enabled (s : State) : (tearDown s).enabled = false := rfl
@[simp] theorem tearDown_fsm (s : State) : (tearDown s).fsm = .disabled := rfl
@[simp] theorem tearDown_apPhase (s : State) : (tearDown s).apPhase = s.apPhase := rfl
@[simp] theorem tearDown_rom (s : State) : (tearDown s).rom = s.rom := rfl
@[simp] theorem tearDown_alarmed (s : State) : (tearDown s).alarmed = s.alarmed := rfl
@[simp] theorem tearDown_resumeAllowed (s : State) :
    (tearDown s).resumeAllowed = s.resumeAllowed := rfl
@[simp] theorem tearDown_searchPhase (s : State) : (tearDown s).searchPhase = s.searchPhase := rfl
@[simp] theorem tearDown_searchIdx (s : State) : (tearDown s).searchIdx = s.searchIdx := rfl
@[simp] theorem tearDown_rxAcc (s : State) : (tearDown s).rxAcc = s.rxAcc := rfl
@[simp] theorem tearDown_rxBit (s : State) : (tearDown s).rxBit = s.rxBit := rfl
@[simp] theorem tearDown_rxByte (s : State) : (tearDown s).rxByte = s.rxByte := rfl
@[simp] theorem tearDown_rxLen (s : State) : (tearDown s).rxLen = s.rxLen := rfl
@[simp] theorem tearDown_rxBuf (s : State) : (tearDown s).rxBuf = s.rxBuf := rfl
@[simp] theorem tearDown_op (s : State) : (tearDown s).op = .idle := rfl
@[simp] theorem tearDown_curBit (s : State) : (tearDown s).curBit = none := rfl
@[simp] theorem tearDown_stale (s : State) : (tearDown s).stale = false := rfl
@[simp] theorem tearDown_timer (s : State) : (tearDown s).timer = none := rfl
@[simp] theorem tearDown_driveLow (s : State) : (tearDown s).driveLow = false := rfl
@[simp] theorem tearDown_lowStart (s : State) : (tearDown s).lowStart = none := rfl
@[simp] theorem tearDown_ps (s : State) : (tearDown s).ps = none := rfl
@[simp] theorem tearDown_txSrc (s : State) : (tearDown s).txSrc = none := rfl
@[simp] theorem tearDown_txCur (s : State) : (tearDown s).txCur = s.txCur := rfl
@[simp] theorem tearDown_recvCbEn (s : State) : (tearDown s).recvCbEn = s.recvCbEn := rfl
@[simp] theorem tearDown_bitCbEn (s : State) : (tearDown s).bitCbEn = s.bitCbEn := rfl

/-! ### `setUp` (R251) -/

@[simp] theorem setUp_toEnv (r : Bytes7) (s : State) : (setUp r s).toEnv = s.toEnv := rfl
@[simp] theorem setUp_enabled (r : Bytes7) (s : State) : (setUp r s).enabled = true := rfl
@[simp] theorem setUp_fsm (r : Bytes7) (s : State) : (setUp r s).fsm = .waitingForReset := rfl
@[simp] theorem setUp_apPhase (r : Bytes7) (s : State) : (setUp r s).apPhase = s.apPhase := rfl
@[simp] theorem setUp_rom (r : Bytes7) (s : State) : (setUp r s).rom = identityOf r := rfl
@[simp] theorem setUp_alarmed (r : Bytes7) (s : State) : (setUp r s).alarmed = false := rfl
@[simp] theorem setUp_resumeAllowed (r : Bytes7) (s : State) :
    (setUp r s).resumeAllowed = false := rfl
@[simp] theorem setUp_searchPhase (r : Bytes7) (s : State) :
    (setUp r s).searchPhase = .sendTrue := rfl
@[simp] theorem setUp_searchIdx (r : Bytes7) (s : State) : (setUp r s).searchIdx = 0 := rfl
@[simp] theorem setUp_rxAcc (r : Bytes7) (s : State) : (setUp r s).rxAcc = s.rxAcc := rfl
@[simp] theorem setUp_rxBit (r : Bytes7) (s : State) : (setUp r s).rxBit = s.rxBit := rfl
@[simp] theorem setUp_rxByte (r : Bytes7) (s : State) : (setUp r s).rxByte = s.rxByte := rfl
@[simp] theorem setUp_rxLen (r : Bytes7) (s : State) : (setUp r s).rxLen = s.rxLen := rfl
@[simp] theorem setUp_rxBuf (r : Bytes7) (s : State) : (setUp r s).rxBuf = s.rxBuf := rfl
@[simp] theorem setUp_op (r : Bytes7) (s : State) : (setUp r s).op = .idle := rfl
@[simp] theorem setUp_curBit (r : Bytes7) (s : State) : (setUp r s).curBit = none := rfl
@[simp] theorem setUp_stale (r : Bytes7) (s : State) : (setUp r s).stale = false := rfl
@[simp] theorem setUp_timer (r : Bytes7) (s : State) : (setUp r s).timer = none := rfl
@[simp] theorem setUp_driveLow (r : Bytes7) (s : State) : (setUp r s).driveLow = false := rfl
@[simp] theorem setUp_lowStart (r : Bytes7) (s : State) : (setUp r s).lowStart = none := rfl
@[simp] theorem setUp_ps (r : Bytes7) (s : State) : (setUp r s).ps = none := rfl
@[simp] theorem setUp_txSrc (r : Bytes7) (s : State) : (setUp r s).txSrc = none := rfl
@[simp] theorem setUp_txCur (r : Bytes7) (s : State) : (setUp r s).txCur = s.txCur := rfl
@[simp] theorem setUp_recvCbEn (r : Bytes7) (s : State) : (setUp r s).recvCbEn = s.recvCbEn := rfl
@[simp] theorem setUp_bitCbEn (r : Bytes7) (s : State) : (setUp r s).bitCbEn = s.bitCbEn := rfl

/-! ### `setAlarmed` (R255) -/

@[simp] theorem setAlarmed_toEnv (v : Bool) (s : State) : (setAlarmed v s).toEnv = s.toEnv := rfl
@[simp] theorem setAlarmed_enabled (v : Bool) (s : State) :
    (setAlarmed v s).enabled = s.enabled := rfl
@[simp] theorem setAlarmed_fsm (v : Bool) (s : State) : (setAlarmed v s).fsm = s.fsm := rfl
@[simp] theorem setAlarmed_apPhase (v : Bool) (s : State) :
    (setAlarmed v s).apPhase = s.apPhase := rfl
@[simp] theorem setAlarmed_rom (v : Bool) (s : State) : (setAlarmed v s).rom = s.rom := rfl
@[simp] theorem setAlarmed_alarmed (v : Bool) (s : State) : (setAlarmed v s).alarmed = v := rfl
@[simp] theorem setAlarmed_resumeAllowed (v : Bool) (s : State) :
    (setAlarmed v s).resumeAllowed = s.resumeAllowed := rfl
@[simp] theorem setAlarmed_searchPhase (v : Bool) (s : State) :
    (setAlarmed v s).searchPhase = s.searchPhase := rfl
@[simp] theorem setAlarmed_searchIdx (v : Bool) (s : State) :
    (setAlarmed v s).searchIdx = s.searchIdx := rfl
@[simp] theorem setAlarmed_rxAcc (v : Bool) (s : State) : (setAlarmed v s).rxAcc = s.rxAcc := rfl
@[simp] theorem setAlarmed_rxBit (v : Bool) (s : State) : (setAlarmed v s).rxBit = s.rxBit := rfl
@[simp] theorem setAlarmed_rxByte (v : Bool) (s : State) : (setAlarmed v s).rxByte = s.rxByte := rfl
@[simp] theorem setAlarmed_rxLen (v : Bool) (s : State) : (setAlarmed v s).rxLen = s.rxLen := rfl
@[simp] theorem setAlarmed_rxBuf (v : Bool) (s : State) : (setAlarmed v s).rxBuf = s.rxBuf := rfl
@[simp] theorem setAlarmed_op (v : Bool) (s : State) : (setAlarmed v s).op = s.op := rfl
@[simp] theorem setAlarmed_curBit (v : Bool) (s : State) : (setAlarmed v s).curBit = s.curBit := rfl
@[simp] theorem setAlarmed_stale (v : Bool) (s : State) : (setAlarmed v s).stale = s.stale := rfl
@[simp] theorem setAlarmed_timer (v : Bool) (s : State) : (setAlarmed v s).timer = s.timer := rfl
@[simp] theorem setAlarmed_driveLow (v : Bool) (s : State) :
    (setAlarmed v s).driveLow = s.driveLow := rfl
@[simp] theorem setAlarmed_lowStart (v : Bool) (s : State) :
    (setAlarmed v s).lowStart = s.lowStart := rfl
@[simp] theorem setAlarmed_ps (v : Bool) (s : State) : (setAlarmed v s).ps = s.ps := rfl
@[simp] theorem setAlarmed_txSrc (v : Bool) (s : State) : (setAlarmed v s).txSrc = s.txSrc := rfl
@[simp] theorem setAlarmed_txCur (v : Bool) (s : State) : (setAlarmed v s).txCur = s.txCur := rfl
@[simp] theorem setAlarmed_recvCbEn (v : Bool) (s : State) :
    (setAlarmed v s).recvCbEn = s.recvCbEn := rfl
@[simp] theorem setAlarmed_bitCbEn (v : Bool) (s : State) :
    (setAlarmed v s).bitCbEn = s.bitCbEn := rfl

/-! ### `setResumeAllowed` (R26) -/

@[simp] theorem setResumeAllowed_toEnv (v : Bool) (s : State) :
    (setResumeAllowed v s).toEnv = s.toEnv := rfl
@[simp] theorem setResumeAllowed_enabled (v : Bool) (s : State) :
    (setResumeAllowed v s).enabled = s.enabled := rfl
@[simp] theorem setResumeAllowed_fsm (v : Bool) (s : State) :
    (setResumeAllowed v s).fsm = s.fsm := rfl
@[simp] theorem setResumeAllowed_apPhase (v : Bool) (s : State) :
    (setResumeAllowed v s).apPhase = s.apPhase := rfl
@[simp] theorem setResumeAllowed_rom (v : Bool) (s : State) :
    (setResumeAllowed v s).rom = s.rom := rfl
@[simp] theorem setResumeAllowed_alarmed (v : Bool) (s : State) :
    (setResumeAllowed v s).alarmed = s.alarmed := rfl
@[simp] theorem setResumeAllowed_resumeAllowed (v : Bool) (s : State) :
    (setResumeAllowed v s).resumeAllowed = v := rfl
@[simp] theorem setResumeAllowed_searchPhase (v : Bool) (s : State) :
    (setResumeAllowed v s).searchPhase = s.searchPhase := rfl
@[simp] theorem setResumeAllowed_searchIdx (v : Bool) (s : State) :
    (setResumeAllowed v s).searchIdx = s.searchIdx := rfl
@[simp] theorem setResumeAllowed_rxAcc (v : Bool) (s : State) :
    (setResumeAllowed v s).rxAcc = s.rxAcc := rfl
@[simp] theorem setResumeAllowed_rxBit (v : Bool) (s : State) :
    (setResumeAllowed v s).rxBit = s.rxBit := rfl
@[simp] theorem setResumeAllowed_rxByte (v : Bool) (s : State) :
    (setResumeAllowed v s).rxByte = s.rxByte := rfl
@[simp] theorem setResumeAllowed_rxLen (v : Bool) (s : State) :
    (setResumeAllowed v s).rxLen = s.rxLen := rfl
@[simp] theorem setResumeAllowed_rxBuf (v : Bool) (s : State) :
    (setResumeAllowed v s).rxBuf = s.rxBuf := rfl
@[simp] theorem setResumeAllowed_op (v : Bool) (s : State) : (setResumeAllowed v s).op = s.op := rfl
@[simp] theorem setResumeAllowed_curBit (v : Bool) (s : State) :
    (setResumeAllowed v s).curBit = s.curBit := rfl
@[simp] theorem setResumeAllowed_stale (v : Bool) (s : State) :
    (setResumeAllowed v s).stale = s.stale := rfl
@[simp] theorem setResumeAllowed_timer (v : Bool) (s : State) :
    (setResumeAllowed v s).timer = s.timer := rfl
@[simp] theorem setResumeAllowed_driveLow (v : Bool) (s : State) :
    (setResumeAllowed v s).driveLow = s.driveLow := rfl
@[simp] theorem setResumeAllowed_lowStart (v : Bool) (s : State) :
    (setResumeAllowed v s).lowStart = s.lowStart := rfl
@[simp] theorem setResumeAllowed_ps (v : Bool) (s : State) : (setResumeAllowed v s).ps = s.ps := rfl
@[simp] theorem setResumeAllowed_txSrc (v : Bool) (s : State) :
    (setResumeAllowed v s).txSrc = s.txSrc := rfl
@[simp] theorem setResumeAllowed_txCur (v : Bool) (s : State) :
    (setResumeAllowed v s).txCur = s.txCur := rfl
@[simp] theorem setResumeAllowed_recvCbEn (v : Bool) (s : State) :
    (setResumeAllowed v s).recvCbEn = s.recvCbEn := rfl
@[simp] theorem setResumeAllowed_bitCbEn (v : Bool) (s : State) :
    (setResumeAllowed v s).bitCbEn = s.bitCbEn := rfl

/-! ### `setSearchPhase` (R27) -/

@[simp] theorem setSearchPhase_toEnv (p : SearchPhase) (s : State) :
    (setSearchPhase p s).toEnv = s.toEnv := rfl
@[simp] theorem setSearchPhase_enabled (p : SearchPhase) (s : State) :
    (setSearchPhase p s).enabled = s.enabled := rfl
@[simp] theorem setSearchPhase_fsm (p : SearchPhase) (s : State) :
    (setSearchPhase p s).fsm = s.fsm := rfl
@[simp] theorem setSearchPhase_apPhase (p : SearchPhase) (s : State) :
    (setSearchPhase p s).apPhase = s.apPhase := rfl
@[simp] theorem setSearchPhase_rom (p : SearchPhase) (s : State) :
    (setSearchPhase p s).rom = s.rom := rfl
@[simp] theorem setSearchPhase_alarmed (p : SearchPhase) (s : State) :
    (setSearchPhase p s).alarmed = s.alarmed := rfl
@[simp] theorem setSearchPhase_resumeAllowed (p : SearchPhase) (s : State) :
    (setSearchPhase p s).resumeAllowed = s.resumeAllowed := rfl
@[simp] theorem setSearchPhase_searchPhase (p : SearchPhase) (s : State) :
    (setSearchPhase p s).searchPhase = p := rfl
@[simp] theorem setSearchPhase_searchIdx (p : SearchPhase) (s : State) :
    (setSearchPhase p s).searchIdx = s.searchIdx := rfl
@[simp] theorem setSearchPhase_rxAcc (p : SearchPhase) (s : State) :
    (setSearchPhase p s).rxAcc = s.rxAcc := rfl
@[simp] theorem setSearchPhase_rxBit (p : SearchPhase) (s : State) :
    (setSearchPhase p s).rxBit = s.rxBit := rfl
@[simp] theorem setSearchPhase_rxByte (p : SearchPhase) (s : State) :
    (setSearchPhase p s).rxByte = s.rxByte := rfl
@[simp] theorem setSearchPhase_rxLen (p : SearchPhase) (s : State) :
    (setSearchPhase p s).rxLen = s.rxLen := rfl
@[simp] theorem setSearchPhase_rxBuf (p : SearchPhase) (s : State) :
    (setSearchPhase p s).rxBuf = s.rxBuf := rfl
@[simp] theorem setSearchPhase_op (p : SearchPhase) (s : State) :
    (setSearchPhase p s).op = s.op := rfl
@[simp] theorem setSearchPhase_curBit (p : SearchPhase) (s : State) :
    (setSearchPhase p s).curBit = s.curBit := rfl
@[simp] theorem setSearchPhase_stale (p : SearchPhase) (s : State) :
    (setSearchPhase p s).stale = s.stale := rfl
@[simp] theorem setSearchPhase_timer (p : SearchPhase) (s : State) :
    (setSearchPhase p s).timer = s.timer := rfl
@[simp] theorem setSearchPhase_driveLow (p : SearchPhase) (s : State) :
    (setSearchPhase p s).driveLow = s.driveLow := rfl
@[simp] theorem setSearchPhase_lowStart (p : SearchPhase) (s : State) :
    (setSearchPhase p s).lowStart = s.lowStart := rfl
@[simp] theorem setSearchPhase_ps (p : SearchPhase) (s : State) :
    (setSearchPhase p s).ps = s.ps := rfl
@[simp] theorem setSearchPhase_txSrc (p : SearchPhase) (s : State) :
    (setSearchPhase p s).txSrc = s.txSrc := rfl
@[simp] theorem setSearchPhase_txCur (p : SearchPhase) (s : State) :
    (setSearchPhase p s).txCur = s.txCur := rfl
@[simp] theorem setSearchPhase_recvCbEn (p : SearchPhase) (s : State) :
    (setSearchPhase p s).recvCbEn = s.recvCbEn := rfl
@[simp] theorem setSearchPhase_bitCbEn (p : SearchPhase) (s : State) :
    (setSearchPhase p s).bitCbEn = s.bitCbEn := rfl

/-! ### `setRecvEnable` (R253) -/

@[simp] theorem setRecvEnable_toEnv (v : Bool) (s : State) :
    (setRecvEnable v s).toEnv = s.toEnv := rfl
@[simp] theorem setRecvEnable_enabled (v : Bool) (s : State) :
    (setRecvEnable v s).enabled = s.enabled := rfl
@[simp] theorem setRecvEnable_fsm (v : Bool) (s : State) : (setRecvEnable v s).fsm = s.fsm := rfl
@[simp] theorem setRecvEnable_apPhase (v : Bool) (s : State) :
    (setRecvEnable v s).apPhase = s.apPhase := rfl
@[simp] theorem setRecvEnable_rom (v : Bool) (s : State) : (setRecvEnable v s).rom = s.rom := rfl
@[simp] theorem setRecvEnable_alarmed (v : Bool) (s : State) :
    (setRecvEnable v s).alarmed = s.alarmed := rfl
@[simp] theorem setRecvEnable_resumeAllowed (v : Bool) (s : State) :
    (setRecvEnable v s).resumeAllowed = s.resumeAllowed := rfl
@[simp] theorem setRecvEnable_searchPhase (v : Bool) (s : State) :
    (setRecvEnable v s).searchPhase = s.searchPhase := rfl
@[simp] theorem setRecvEnable_searchIdx (v : Bool) (s : State) :
    (setRecvEnable v s).searchIdx = s.searchIdx := rfl
@[simp] theorem setRecvEnable_rxAcc (v : Bool) (s : State) :
    (setRecvEnable v s).rxAcc = s.rxAcc := rfl
@[simp] theorem setRecvEnable_rxBit (v : Bool) (s : State) :
    (setRecvEnable v s).rxBit = s.rxBit := rfl
@[simp] theorem setRecvEnable_rxByte (v : Bool) (s : State) :
    (setRecvEnable v s).rxByte = s.rxByte := rfl
@[simp] theorem setRecvEnable_rxLen (v : Bool) (s : State) :
    (setRecvEnable v s).rxLen = s.rxLen := rfl
@[simp] theorem setRecvEnable_rxBuf (v : Bool) (s : State) :
    (setRecvEnable v s).rxBuf = s.rxBuf := rfl
@[simp] theorem setRecvEnable_op (v : Bool) (s : State) : (setRecvEnable v s).op = s.op := rfl
@[simp] theorem setRecvEnable_curBit (v : Bool) (s : State) :
    (setRecvEnable v s).curBit = s.curBit := rfl
@[simp] theorem setRecvEnable_stale (v : Bool) (s : State) :
    (setRecvEnable v s).stale = s.stale := rfl
@[simp] theorem setRecvEnable_timer (v : Bool) (s : State) :
    (setRecvEnable v s).timer = s.timer := rfl
@[simp] theorem setRecvEnable_driveLow (v : Bool) (s : State) :
    (setRecvEnable v s).driveLow = s.driveLow := rfl
@[simp] theorem setRecvEnable_lowStart (v : Bool) (s : State) :
    (setRecvEnable v s).lowStart = s.lowStart := rfl
@[simp] theorem setRecvEnable_ps (v : Bool) (s : State) : (setRecvEnable v s).ps = s.ps := rfl
@[simp] theorem setRecvEnable_txSrc (v : Bool) (s : State) :
    (setRecvEnable v s).txSrc = s.txSrc := rfl
@[simp] theorem setRecvEnable_txCur (v : Bool) (s : State) :
    (setRecvEnable v s).txCur = s.txCur := rfl
@[simp] theorem setRecvEnable_recvCbEn (v : Bool) (s : State) :
    (setRecvEnable v s).recvCbEn = v := rfl
@[simp] theorem setRecvEnable_bitCbEn (v : Bool) (s : State) :
    (setRecvEnable v s).bitCbEn = s.bitCbEn := rfl

/-! ### `setBitEnable` (R254) -/

@[simp] theorem setBitEnable_toEnv (v : Bool) (s : State) :
    (setBitEnable v s).toEnv = s.toEnv := rfl
@[simp] theorem setBitEnable_enabled (v : Bool) (s : State) :
    (setBitEnable v s).enabled = s.enabled := rfl
@[simp] theorem setBitEnable_fsm (v : Bool) (s : State) : (setBitEnable v s).fsm = s.fsm := rfl
@[simp] theorem setBitEnable_apPhase (v : Bool) (s : State) :
    (setBitEnable v s).apPhase = s.apPhase := rfl
@[simp] theorem setBitEnable_rom (v : Bool) (s : State) : (setBitEnable v s).rom = s.rom := rfl
@[simp] theorem setBitEnable_alarmed (v : Bool) (s : State) :
    (setBitEnable v s).alarmed = s.alarmed := rfl
@[simp] theorem setBitEnable_resumeAllowed (v : Bool) (s : State) :
    (setBitEnable v s).resumeAllowed = s.resumeAllowed := rfl
@[simp] theorem setBitEnable_searchPhase (v : Bool) (s : State) :
    (setBitEnable v s).searchPhase = s.searchPhase := rfl
@[simp] theorem setBitEnable_searchIdx (v : Bool) (s : State) :
    (setBitEnable v s).searchIdx = s.searchIdx := rfl
@[simp] theorem setBitEnable_rxAcc (v : Bool) (s : State) :
    (setBitEnable v s).rxAcc = s.rxAcc := rfl
@[simp] theorem setBitEnable_rxBit (v : Bool) (s : State) :
    (setBitEnable v s).rxBit = s.rxBit := rfl
@[simp] theorem setBitEnable_rxByte (v : Bool) (s : State) :
    (setBitEnable v s).rxByte = s.rxByte := rfl
@[simp] theorem setBitEnable_rxLen (v : Bool) (s : State) :
    (setBitEnable v s).rxLen = s.rxLen := rfl
@[simp] theorem setBitEnable_rxBuf (v : Bool) (s : State) :
    (setBitEnable v s).rxBuf = s.rxBuf := rfl
@[simp] theorem setBitEnable_op (v : Bool) (s : State) : (setBitEnable v s).op = s.op := rfl
@[simp] theorem setBitEnable_curBit (v : Bool) (s : State) :
    (setBitEnable v s).curBit = s.curBit := rfl
@[simp] theorem setBitEnable_stale (v : Bool) (s : State) :
    (setBitEnable v s).stale = s.stale := rfl
@[simp] theorem setBitEnable_timer (v : Bool) (s : State) :
    (setBitEnable v s).timer = s.timer := rfl
@[simp] theorem setBitEnable_driveLow (v : Bool) (s : State) :
    (setBitEnable v s).driveLow = s.driveLow := rfl
@[simp] theorem setBitEnable_lowStart (v : Bool) (s : State) :
    (setBitEnable v s).lowStart = s.lowStart := rfl
@[simp] theorem setBitEnable_ps (v : Bool) (s : State) : (setBitEnable v s).ps = s.ps := rfl
@[simp] theorem setBitEnable_txSrc (v : Bool) (s : State) :
    (setBitEnable v s).txSrc = s.txSrc := rfl
@[simp] theorem setBitEnable_txCur (v : Bool) (s : State) :
    (setBitEnable v s).txCur = s.txCur := rfl
@[simp] theorem setBitEnable_recvCbEn (v : Bool) (s : State) :
    (setBitEnable v s).recvCbEn = s.recvCbEn := rfl
@[simp] theorem setBitEnable_bitCbEn (v : Bool) (s : State) : (setBitEnable v s).bitCbEn = v := rfl

/-! ### `emitIf` (R262 to R265) -/

@[simp] theorem emitIf_toBlock (c : Bool) (n : Notification) (s : State) :
    (emitIf c n s).toBlock = s.toBlock := rfl
@[simp] theorem emitIf_cfg (c : Bool) (n : Notification) (s : State) :
    (emitIf c n s).cfg = s.cfg := rfl
@[simp] theorem emitIf_now (c : Bool) (n : Notification) (s : State) :
    (emitIf c n s).now = s.now := rfl
@[simp] theorem emitIf_ext (c : Bool) (n : Notification) (s : State) :
    (emitIf c n s).ext = s.ext := rfl
@[simp] theorem emitIf_lineSeen (c : Bool) (n : Notification) (s : State) :
    (emitIf c n s).lineSeen = s.lineSeen := rfl
@[simp] theorem emitIf_tx (c : Bool) (n : Notification) (s : State) :
    (emitIf c n s).tx = s.tx := rfl
@[simp] theorem emitIf_inputs (c : Bool) (n : Notification) (s : State) :
    (emitIf c n s).inputs = s.inputs := rfl
@[simp] theorem emitIf_reactions (c : Bool) (n : Notification) (s : State) :
    (emitIf c n s).reactions = s.reactions := rfl
@[simp] theorem emitIf_out (c : Bool) (n : Notification) (s : State) :
    (emitIf c n s).out = if c then s.out ++ [⟨s.now, n⟩] else s.out := rfl
@[simp] theorem emitIf_result (c : Bool) (n : Notification) (s : State) :
    (emitIf c n s).result = s.result := rfl
@[simp] theorem emitIf_ties (c : Bool) (n : Notification) (s : State) :
    (emitIf c n s).ties = s.ties := rfl

/-! ### `failPending` (R207) -/

@[simp] theorem failPending_enabled (s : State) : (failPending s).enabled = s.enabled := rfl
@[simp] theorem failPending_fsm (s : State) : (failPending s).fsm = s.fsm := rfl
@[simp] theorem failPending_apPhase (s : State) : (failPending s).apPhase = s.apPhase := rfl
@[simp] theorem failPending_rom (s : State) : (failPending s).rom = s.rom := rfl
@[simp] theorem failPending_alarmed (s : State) : (failPending s).alarmed = s.alarmed := rfl
@[simp] theorem failPending_resumeAllowed (s : State) :
    (failPending s).resumeAllowed = s.resumeAllowed := rfl
@[simp] theorem failPending_searchPhase (s : State) :
    (failPending s).searchPhase = s.searchPhase := rfl
@[simp] theorem failPending_searchIdx (s : State) : (failPending s).searchIdx = s.searchIdx := rfl
@[simp] theorem failPending_rxAcc (s : State) : (failPending s).rxAcc = s.rxAcc := rfl
@[simp] theorem failPending_rxBit (s : State) : (failPending s).rxBit = s.rxBit := rfl
@[simp] theorem failPending_rxByte (s : State) : (failPending s).rxByte = s.rxByte := rfl
@[simp] theorem failPending_rxLen (s : State) : (failPending s).rxLen = s.rxLen := rfl
@[simp] theorem failPending_rxBuf (s : State) : (failPending s).rxBuf = s.rxBuf := rfl
@[simp] theorem failPending_op (s : State) : (failPending s).op = s.op := rfl
@[simp] theorem failPending_curBit (s : State) : (failPending s).curBit = s.curBit := rfl
@[simp] theorem failPending_stale (s : State) : (failPending s).stale = s.stale := rfl
@[simp] theorem failPending_timer (s : State) : (failPending s).timer = s.timer := rfl
@[simp] theorem failPending_driveLow (s : State) : (failPending s).driveLow = s.driveLow := rfl
@[simp] theorem failPending_lowStart (s : State) : (failPending s).lowStart = s.lowStart := rfl
@[simp] theorem failPending_ps (s : State) : (failPending s).ps = none := rfl
@[simp] theorem failPending_txSrc (s : State) : (failPending s).txSrc = s.txSrc := rfl
@[simp] theorem failPending_txCur (s : State) : (failPending s).txCur = s.txCur := rfl
@[simp] theorem failPending_recvCbEn (s : State) : (failPending s).recvCbEn = s.recvCbEn := rfl
@[simp] theorem failPending_bitCbEn (s : State) : (failPending s).bitCbEn = s.bitCbEn := rfl
@[simp] theorem failPending_cfg (s : State) : (failPending s).cfg = s.cfg := rfl
@[simp] theorem failPending_now (s : State) : (failPending s).now = s.now := rfl
@[simp] theorem failPending_ext (s : State) : (failPending s).ext = s.ext := rfl
@[simp] theorem failPending_lineSeen (s : State) : (failPending s).lineSeen = s.lineSeen := rfl
@[simp] theorem failPending_tx (s : State) : (failPending s).tx = s.tx := rfl
@[simp] theorem failPending_inputs (s : State) : (failPending s).inputs = s.inputs := rfl
@[simp] theorem failPending_reactions (s : State) : (failPending s).reactions = s.reactions := rfl
@[simp] theorem failPending_out (s : State) :
    (failPending s).out = if pendingHasCb s then s.out ++ [⟨s.now, .sendDone true⟩] else s.out := rfl
@[simp] theorem failPending_result (s : State) : (failPending s).result = s.result := rfl
@[simp] theorem failPending_ties (s : State) : (failPending s).ties = s.ties := rfl

/-! ### `enterWFR` (R207) -/

@[simp] theorem enterWFR_enabled (s : State) : (enterWFR s).enabled = s.enabled := rfl
@[simp] theorem enterWFR_fsm (s : State) : (enterWFR s).fsm = .waitingForReset := rfl
@[simp] theorem enterWFR_apPhase (s : State) : (enterWFR s).apPhase = s.apPhase := rfl
@[simp] theorem enterWFR_rom (s : State) : (enterWFR s).rom = s.rom := rfl
@[simp] theorem enterWFR_alarmed (s : State) : (enterWFR s).alarmed = s.alarmed := rfl
@[simp] theorem enterWFR_resumeAllowed (s : State) :
    (enterWFR s).resumeAllowed = s.resumeAllowed := rfl
@[simp] theorem enterWFR_searchPhase (s : State) : (enterWFR s).searchPhase = s.searchPhase := rfl
@[simp] theorem enterWFR_searchIdx (s : State) : (enterWFR s).searchIdx = s.searchIdx := rfl
@[simp] theorem enterWFR_rxAcc (s : State) : (enterWFR s).rxAcc = s.rxAcc := rfl
@[simp] theorem enterWFR_rxBit (s : State) : (enterWFR s).rxBit = s.rxBit := rfl
@[simp] theorem enterWFR_rxByte (s : State) : (enterWFR s).rxByte = s.rxByte := rfl
@[simp] theorem enterWFR_rxLen (s : State) : (enterWFR s).rxLen = s.rxLen := rfl
@[simp] theorem enterWFR_rxBuf (s : State) : (enterWFR s).rxBuf = s.rxBuf := rfl
@[simp] theorem enterWFR_op (s : State) : (enterWFR s).op = .idle := rfl
@[simp] theorem enterWFR_curBit (s : State) : (enterWFR s).curBit = none := rfl
@[simp] theorem enterWFR_stale (s : State) : (enterWFR s).stale = false := rfl
@[simp] theorem enterWFR_timer (s : State) : (enterWFR s).timer = withoutSlotCallback s.timer := rfl
@[simp] theorem enterWFR_driveLow (s : State) : (enterWFR s).driveLow = false := rfl
@[simp] theorem enterWFR_lowStart (s : State) : (enterWFR s).lowStart = s.lowStart := rfl
@[simp] theorem enterWFR_ps (s : State) : (enterWFR s).ps = none := rfl
@[simp] theorem enterWFR_txSrc (s : State) : (enterWFR s).txSrc = none := rfl
@[simp] theorem enterWFR_txCur (s : State) : (enterWFR s).txCur = s.txCur := rfl
@[simp] theorem enterWFR_recvCbEn (s : State) : (enterWFR s).recvCbEn = s.recvCbEn := rfl
@[simp] theorem enterWFR_bitCbEn (s : State) : (enterWFR s).bitCbEn = s.bitCbEn := rfl
@[simp] theorem enterWFR_cfg (s : State) : (enterWFR s).cfg = s.cfg := rfl
@[simp] theorem enterWFR_now (s : State) : (enterWFR s).now = s.now := rfl
@[simp] theorem enterWFR_ext (s : State) : (enterWFR s).ext = s.ext := rfl
@[simp] theorem enterWFR_lineSeen (s : State) : (enterWFR s).lineSeen = s.lineSeen := rfl
@[simp] theorem enterWFR_tx (s : State) : (enterWFR s).tx = s.tx := rfl
@[simp] theorem enterWFR_inputs (s : State) : (enterWFR s).inputs = s.inputs := rfl
@[simp] theorem enterWFR_reactions (s : State) : (enterWFR s).reactions = s.reactions := rfl
@[simp] theorem enterWFR_out (s : State) :
    (enterWFR s).out = if pendingHasCb s then s.out ++ [⟨s.now, .sendDone true⟩] else s.out := rfl
@[simp] theorem enterWFR_result (s : State) : (enterWFR s).result = s.result := rfl
@[simp] theorem enterWFR_ties (s : State) : (enterWFR s).ties = s.ties := rfl

/-! ### `raiseError` (R285) -/

@[simp] theorem raiseError_enabled (e : EngineError) (s : State) :
    (raiseError e s).enabled = s.enabled := rfl
@[simp] theorem raiseError_fsm (e : EngineError) (s : State) :
    (raiseError e s).fsm = .waitingForReset := rfl
@[simp] theorem raiseError_apPhase (e : EngineError) (s : State) :
    (raiseError e s).apPhase = s.apPhase := rfl
@[simp] theorem raiseError_rom (e : EngineError) (s : State) : (raiseError e s).rom = s.rom := rfl
@[simp] theorem raiseError_alarmed (e : EngineError) (s : State) :
    (raiseError e s).alarmed = s.alarmed := rfl
@[simp] theorem raiseError_resumeAllowed (e : EngineError) (s : State) :
    (raiseError e s).resumeAllowed = s.resumeAllowed := rfl
@[simp] theorem raiseError_searchPhase (e : EngineError) (s : State) :
    (raiseError e s).searchPhase = s.searchPhase := rfl
@[simp] theorem raiseError_searchIdx (e : EngineError) (s : State) :
    (raiseError e s).searchIdx = s.searchIdx := rfl
@[simp] theorem raiseError_rxAcc (e : EngineError) (s : State) :
    (raiseError e s).rxAcc = s.rxAcc := rfl
@[simp] theorem raiseError_rxBit (e : EngineError) (s : State) :
    (raiseError e s).rxBit = s.rxBit := rfl
@[simp] theorem raiseError_rxByte (e : EngineError) (s : State) :
    (raiseError e s).rxByte = s.rxByte := rfl
@[simp] theorem raiseError_rxLen (e : EngineError) (s : State) :
    (raiseError e s).rxLen = s.rxLen := rfl
@[simp] theorem raiseError_rxBuf (e : EngineError) (s : State) :
    (raiseError e s).rxBuf = s.rxBuf := rfl
@[simp] theorem raiseError_op (e : EngineError) (s : State) : (raiseError e s).op = .idle := rfl
@[simp] theorem raiseError_curBit (e : EngineError) (s : State) :
    (raiseError e s).curBit = none := rfl
@[simp] theorem raiseError_stale (e : EngineError) (s : State) :
    (raiseError e s).stale = false := rfl
@[simp] theorem raiseError_timer (e : EngineError) (s : State) :
    (raiseError e s).timer = withoutSlotCallback s.timer := rfl
@[simp] theorem raiseError_driveLow (e : EngineError) (s : State) :
    (raiseError e s).driveLow = false := rfl
@[simp] theorem raiseError_lowStart (e : EngineError) (s : State) :
    (raiseError e s).lowStart = s.lowStart := rfl
@[simp] theorem raiseError_ps (e : EngineError) (s : State) : (raiseError e s).ps = none := rfl
@[simp] theorem raiseError_txSrc (e : EngineError) (s : State) :
    (raiseError e s).txSrc = none := rfl
@[simp] theorem raiseError_txCur (e : EngineError) (s : State) :
    (raiseError e s).txCur = s.txCur := rfl
@[simp] theorem raiseError_recvCbEn (e : EngineError) (s : State) :
    (raiseError e s).recvCbEn = s.recvCbEn := rfl
@[simp] theorem raiseError_bitCbEn (e : EngineError) (s : State) :
    (raiseError e s).bitCbEn = s.bitCbEn := rfl
@[simp] theorem raiseError_cfg (e : EngineError) (s : State) : (raiseError e s).cfg = s.cfg := rfl
@[simp] theorem raiseError_now (e : EngineError) (s : State) : (raiseError e s).now = s.now := rfl
@[simp] theorem raiseError_ext (e : EngineError) (s : State) : (raiseError e s).ext = s.ext := rfl
@[simp] theorem raiseError_lineSeen (e : EngineError) (s : State) :
    (raiseError e s).lineSeen = s.lineSeen := rfl
@[simp] theorem raiseError_tx (e : EngineError) (s : State) : (raiseError e s).tx = s.tx := rfl
@[simp] theorem raiseError_inputs (e : EngineError) (s : State) :
    (raiseError e s).inputs = s.inputs := rfl
@[simp] theorem raiseError_reactions (e : EngineError) (s : State) :
    (raiseError e s).reactions = s.reactions := rfl
@[simp] theorem raiseError_result (e : EngineError) (s : State) :
    (raiseError e s).result = s.result := rfl
@[simp] theorem raiseError_ties (e : EngineError) (s : State) :
    (raiseError e s).ties = s.ties := rfl

/-! ### The notifications, each a gated `emitIf` -/

@[simp] theorem notifyEvent_eq (e : EventKind) (v : Byte) (s : State) :
    notifyEvent e v s = emitIf s.recvCbEn (.event e v) s := rfl
@[simp] theorem notifyBit_eq (b : Bool) (s : State) :
    notifyBit b s = emitIf s.bitCbEn (.bit b) s := rfl
@[simp] theorem notifySendDone_eq (h e : Bool) (s : State) :
    notifySendDone h e s = emitIf h (.sendDone e) s := rfl
@[simp] theorem notifyDiag_eq (e : EngineError) (s : State) :
    notifyDiag e s = emitIf true (.diag e.code) s := rfl

end Sys2Proof.Machine
end

