-- ==== Sys2Proof/Laws/Ops.lean ====
section
/-! SUPPORT. What each shared operation can do, said once: the record it answers, or the operations it
comes down to. The claims about instructions and steps cite these and do not unfold an operation. -/

namespace Sys2Proof.Machine

/-! ### The timer -/

/-- The reset check is scheduled exactly if the line has not risen since its last fall (R156). -/
theorem scheduleResetCheck_eq (s : State) : scheduleResetCheck s =
    { s with timer := match s.lowStart with
        | none => s.timer
        | some t0 =>
          some ⟨s.now + effectiveDelay s.cfg (t0 + s.cfg.tResetCheck - s.now), .resetCheck⟩ } := by
  obtain ⟨b, e⟩ := s
  obtain ⟨⟩ := b
  rename_i lowStart _ _ _ _ _
  cases lowStart <;> rfl

/-- With a disarmed timer, the slot afterwards is `checkAt` of the present time (R156). -/
theorem scheduleResetCheck_of_none (s : State) (h : s.timer = none) :
    scheduleResetCheck s = { s with timer := checkAt s s.now } := by
  cases hl : s.lowStart <;> simp [scheduleResetCheck_eq, checkAt, h, hl]

/-- The slot without a pending ResetCheck (R153). -/
theorem withoutResetCheck_some (d : Nat) (cb : Callback) :
    withoutResetCheck (some ⟨d, cb⟩) = if cb = .resetCheck then none else some ⟨d, cb⟩ := rfl

/-- Leaving a transaction cancels a Sample or a HoldEnd and keeps anything else (R207). -/
theorem withoutSlotCallback_eq (s : State) : withoutSlotCallback s.timer = keptTimer s := by
  unfold withoutSlotCallback keptTimer
  rcases s.timer with _ | ⟨d, cb⟩
  · rfl
  · cases cb <;> rfl

/-- A legal tick makes the effective delay positive (R133). -/
theorem effectiveDelay_pos (p : Params) (d : Nat) (h : p.Legal) : 0 < effectiveDelay p d := by
  have h1 : 1 ≤ p.timerTick := h.2.2.2.2.2.2.2
  have h2 : 1 * 1 ≤ max 1 ((d - p.timerOverhead) / p.timerTick) * p.timerTick :=
    Nat.mul_le_mul (Nat.le_max_left _ _) h1
  unfold effectiveDelay
  omega

/-! ### Leaving a transaction, and the error path -/

/-- Failing the armed send drops it and says so if it has a callback (R264). -/
theorem failPending_eq (s : State) : failPending s =
    { s with ps := none, out := s.out ++ cancelNotice s } := by
  unfold failPending cancelNotice pendingHasCb notifySendDone emitIf
  cases s.ps with
  | none => simp
  | some p => cases h : p.hasCb <;> simp [h]

/-- The one way into WaitingForReset from a transaction (R207). -/
theorem enterWFR_eq (s : State) : enterWFR s = backToWaiting s (cancelNotice s) := by
  unfold enterWFR backToWaiting
  simp [failPending_eq, withoutSlotCallback_eq]

/-- The error path, as one record (R285). -/
theorem raiseError_eq (e : EngineError) (s : State) : raiseError e s =
    backToWaiting s
      (⟨s.now, .diag e.code⟩ :: (cancelNotice s ++ eventNotice s .error 0)) := by
  unfold raiseError
  simp [enterWFR_eq, failPending_eq, backToWaiting, keptTimer, notifyDiag, notifyEvent, emitIf,
    cancelNotice, eventNotice]
  split <;> simp

/-! ### Arming -/

/-- The application byte loop is entered at bit 0 of a fresh byte (R230). -/
theorem enterAppLoop_eq (s : State) : enterAppLoop s = inFreshByte s := rfl

/-- The send of a bit, as one record (R147). -/
theorem armSend_eq (b : Bool) (s : State) :
    armSend b s = { s with op := sendOp b, curBit := some b } := rfl

/-- The next bit of an armed client send that has one (R185). -/
theorem psBit_of_inRange (p : PendingSend) (s : State) (h : p.InRange) : ∃ b, psBit p s = some b := by
  unfold psBit
  cases hp : p.payload with
  | bit v again => exact ⟨v, rfl⟩
  | bytes buf len byteCur bitCur =>
    exact ⟨(Memory.read s.tx (buf + byteCur)).getLsbD bitCur.toNat,
      by simp [memRead, h buf len byteCur bitCur hp]⟩

/-- Arming the next bit of a send that has one arms the send of that bit and changes nothing else
(R185). -/
theorem armPsBit_of_inRange (p : PendingSend) (s : State) (hs : s.ps = some p) (h : p.InRange) :
    ∃ b, psBit p s = some b ∧ armPsBit s = .next { s with op := sendOp b, curBit := some b } := by
  obtain ⟨b, hb⟩ := psBit_of_inRange p s h
  exact ⟨b, hb, by simp [armPsBit, hs, hb, armSend_eq]⟩

/-- Whenever `armPsBit` has a next state, it armed a send and did nothing else. -/
theorem armPsBit_next (s t : State) (h : armPsBit s = .next t) :
    ∃ p b, s.ps = some p ∧ psBit p s = some b ∧ t = { s with op := sendOp b, curBit := some b } := by
  unfold armPsBit at h
  split at h
  · cases h
  · rename_i p hp
    split at h
    · cases h
    · rename_i b hb
      cases h
      exact ⟨p, b, hp, hb, rfl⟩

/-! ### Queueing a send (R256 to R260) -/

/-- The test for the application byte loop. -/
theorem inAppLoop_iff (s : State) : inAppLoop s = true ↔ InLoop s := by
  simp [inAppLoop, InLoop]

/-- While disabled a request to send changes nothing (R260). -/
theorem queueSend_disabled (new : Option PendingSend) (s : State) (h : s.enabled = false) :
    queueSend new s = .next s := by simp [queueSend, h]

/-- Outside the loop a request to send is only answered (R259). -/
theorem queueSend_outside (new : Option PendingSend) (s : State) (h : s.enabled = true)
    (hl : ¬ InLoop s) : queueSend new s =
      .next (match new with
        | none => s
        | some p => notifySendDone p.hasCb true s) := by
  rw [← inAppLoop_iff, Bool.not_eq_true] at hl
  cases new <;> simp [queueSend, h, hl]

/-- In the loop the previous send is failed first; then the send is armed, or the empty send stops
(R256). -/
theorem queueSend_inLoop (new : Option PendingSend) (s : State) (h : s.enabled = true)
    (hl : InLoop s) : queueSend new s =
      match new with
      | none => .next (emptySend { s with ps := none, out := s.out ++ cancelNotice s })
      | some p => armNewSend p { s with ps := none, out := s.out ++ cancelNotice s } := by
  have := (inAppLoop_iff s).2 hl
  cases new <;> simp [queueSend, h, this, failPending_eq]

/-- A new send that has a bit to send is queued with a next state: its first bit armed if a slot is
armed, else the operation in flight marked stale (R256). -/
theorem armNewSend_of_inRange (p : PendingSend) (s : State) (h : p.InRange) :
    ∃ b, psBit p s = some b ∧
      armNewSend p s =
        let u := { s with
          ps := some p
          rxAcc := if s.fsm = Fsm.receivingApplicationByte then 0 else s.rxAcc
          rxBit := if s.fsm = Fsm.receivingApplicationByte then 0 else s.rxBit
          fsm := .sendingBytes, txSrc := some .client }
        .next (if s.op.armed then { u with op := sendOp b, curBit := some b }
          else { u with stale := true }) := by
  obtain ⟨b, hb⟩ := psBit_of_inRange p s h
  refine ⟨b, hb, ?_⟩
  have hb' : ∀ u : State, u.tx = s.tx → psBit p u = some b := fun u hu => by
    rw [← hb]; unfold psBit; cases p.payload <;> simp [memRead, hu]
  cases hop : s.op <;> simp [armNewSend, hop, BitOp.armed, armPsBit, hb', armSend_eq]

/-! ### Notifications -/

/-- Emitting appends at most one notification, stamped with the present time (R15). -/
theorem emitIf_record (c : Bool) (n : Notification) (s : State) :
    emitIf c n s = { s with out := s.out ++ (if c then [⟨s.now, n⟩] else []) } := by
  cases c <;> simp [emitIf]

/-- `Event` (R262). -/
theorem notifyEvent_record (e : EventKind) (v : Byte) (s : State) :
    notifyEvent e v s = { s with out := s.out ++ eventNotice s e v } := emitIf_record _ _ _

/-- `Bit` (R263). -/
theorem notifyBit_record (b : Bool) (s : State) :
    notifyBit b s = { s with out := s.out ++ bitNotice s b } := emitIf_record _ _ _

end Sys2Proof.Machine
end

