-- ==== Sys2Proof/Laws/Frame.lean ====
section
/-! SUPPORT. What the block's own reactions leave alone (10_state.md R20, R24, R25, R38; 20_memory.md R60,
R67): `Kept s t` says that `t` differs from `s` only in the fields that edges, callbacks and ROM commands
may write, and in notifications appended at the present time. It holds of every operation below the
events, so that a proof about all steps need not open them one by one. -/

namespace Sys2Proof.Machine

/-- The fields that no edge, callback or ROM command writes, and the notifications only appended to. -/
structure Kept (s t : State) : Prop where
  cfg : t.cfg = s.cfg
  now : t.now = s.now
  ext : t.ext = s.ext
  lineSeen : t.lineSeen = s.lineSeen
  tx : t.tx = s.tx
  inputs : t.inputs = s.inputs
  reactions : t.reactions = s.reactions
  result : t.result = s.result
  ties : t.ties = s.ties
  enabled : t.enabled = s.enabled
  rom : t.rom = s.rom
  alarmed : t.alarmed = s.alarmed
  recvCbEn : t.recvCbEn = s.recvCbEn
  bitCbEn : t.bitCbEn = s.bitCbEn
  out : ∃ new : List Emission, t.out = s.out ++ new ∧ ∀ e ∈ new, e.time = s.now

/-- Every next state of an outcome is `Kept`. -/
def KeptOf (s : State) (o : Host.Outcome State Fault Refusal) : Prop := ∀ t, o = .next t → Kept s t

theorem Kept.refl (s : State) : Kept s s :=
  ⟨rfl, rfl, rfl, rfl, rfl, rfl, rfl, rfl, rfl, rfl, rfl, rfl, rfl, rfl, [], by simp, by simp⟩

theorem Kept.trans {s t u : State} (h : Kept s t) (k : Kept t u) : Kept s u := by
  obtain ⟨a, ha, ha'⟩ := h.out
  obtain ⟨b, hb, hb'⟩ := k.out
  refine ⟨k.cfg.trans h.cfg, k.now.trans h.now, k.ext.trans h.ext, k.lineSeen.trans h.lineSeen,
    k.tx.trans h.tx, k.inputs.trans h.inputs, k.reactions.trans h.reactions, k.result.trans h.result,
    k.ties.trans h.ties, k.enabled.trans h.enabled, k.rom.trans h.rom, k.alarmed.trans h.alarmed,
    k.recvCbEn.trans h.recvCbEn, k.bitCbEn.trans h.bitCbEn, a ++ b, by rw [hb, ha]; simp, ?_⟩
  intro e he
  rcases List.mem_append.1 he with he | he
  · exact ha' e he
  · rw [← h.now]; exact hb' e he

/-- Two states that differ in nothing that `Kept` names. -/
theorem Kept.of_fields {s t : State} (he : t.toEnv = s.toEnv) (h1 : t.enabled = s.enabled)
    (h2 : t.rom = s.rom) (h3 : t.alarmed = s.alarmed) (h4 : t.recvCbEn = s.recvCbEn)
    (h5 : t.bitCbEn = s.bitCbEn) : Kept s t :=
  ⟨by rw [he], by rw [he], by rw [he], by rw [he], by rw [he], by rw [he], by rw [he], by rw [he],
    by rw [he],
    h1, h2, h3, h4, h5, [], by rw [he]; simp, by simp⟩

theorem keptOf_next {s t : State} (h : Kept s t) : KeptOf s (.next t) := fun u hu => by cases hu; exact h

theorem keptOf_fault (s : State) (f : Fault) : KeptOf s (.fault f) := fun u hu => by cases hu

theorem KeptOf.of_kept {s t : State} {o : Host.Outcome State Fault Refusal} (h : Kept s t)
    (k : KeptOf t o) : KeptOf s o := fun u hu => h.trans (k u hu)

/-! ### The shared operations -/

theorem kept_emitIf (c : Bool) (n : Notification) (s : State) : Kept s (emitIf c n s) := by
  rw [emitIf_record]
  refine ⟨rfl, rfl, rfl, rfl, rfl, rfl, rfl, rfl, rfl, rfl, rfl, rfl, rfl, rfl, _, rfl, ?_⟩
  intro e he
  cases c <;> simp_all

theorem kept_armRecv (s : State) : Kept s (armRecv s) := .of_fields rfl rfl rfl rfl rfl rfl

theorem kept_armSend (b : Bool) (s : State) : Kept s (armSend b s) := .of_fields rfl rfl rfl rfl rfl rfl

theorem kept_startReceive (n : BitVec 4) (s : State) : Kept s (startReceive n s) :=
  .of_fields rfl rfl rfl rfl rfl rfl

theorem kept_timerSchedule (d : Nat) (cb : Callback) (s : State) : Kept s (timerSchedule d cb s) :=
  .of_fields rfl rfl rfl rfl rfl rfl

theorem kept_scheduleResetCheck (s : State) : Kept s (scheduleResetCheck s) := by
  rw [scheduleResetCheck_eq]; exact .of_fields rfl rfl rfl rfl rfl rfl

theorem kept_enterAppLoop (s : State) : Kept s (enterAppLoop s) := .of_fields rfl rfl rfl rfl rfl rfl

theorem kept_startSearch (s : State) : Kept s (startSearch s) := .of_fields rfl rfl rfl rfl rfl rfl

/-- Back to WaitingForReset, with notifications of the present time. -/
theorem kept_backToWaiting (s : State) (said : List Emission) (h : ∀ e ∈ said, e.time = s.now) :
    Kept s (backToWaiting s said) :=
  ⟨rfl, rfl, rfl, rfl, rfl, rfl, rfl, rfl, rfl, rfl, rfl, rfl, rfl, rfl, said, rfl, h⟩

theorem cancelNotice_now (s : State) : ∀ e ∈ cancelNotice s, e.time = s.now := by
  intro e he
  unfold cancelNotice at he
  split at he
  · cases he
  · split at he
    · rw [List.mem_singleton] at he; rw [he]
    · cases he

theorem eventNotice_now (s : State) (k : EventKind) (v : Byte) :
    ∀ e ∈ eventNotice s k v, e.time = s.now := by
  intro e he
  unfold eventNotice at he
  split at he
  · rw [List.mem_singleton] at he; rw [he]
  · cases he

theorem kept_failPending (s : State) : Kept s (failPending s) := by
  rw [failPending_eq]
  exact ⟨rfl, rfl, rfl, rfl, rfl, rfl, rfl, rfl, rfl, rfl, rfl, rfl, rfl, rfl, _, rfl, cancelNotice_now s⟩

theorem kept_enterWFR (s : State) : Kept s (enterWFR s) := by
  rw [enterWFR_eq]; exact kept_backToWaiting s _ (cancelNotice_now s)

theorem kept_raiseError (e : EngineError) (s : State) : Kept s (raiseError e s) := by
  rw [raiseError_eq]
  refine kept_backToWaiting s _ ?_
  intro n hn
  rcases List.mem_cons.1 hn with hn | hn
  · rw [hn]
  · rcases List.mem_append.1 hn with hn | hn
    · exact cancelNotice_now s n hn
    · exact eventNotice_now s _ _ n hn

theorem keptOf_armPsBit (s : State) : KeptOf s (armPsBit s) := by
  intro t h
  obtain ⟨p, b, -, -, rfl⟩ := armPsBit_next s t h
  exact .of_fields rfl rfl rfl rfl rfl rfl

end Sys2Proof.Machine
end

