-- ==== Sys2Proof/Laws/Invariant.lean ====
section
/-! SUPPORT. The six shapes of a state with the invariant (10_state.md R41): disabled, waiting for a reset,
asserting presence, an operation armed, a sample awaited, a 0 held. `inv_shapes` takes the invariant
apart and the `…Shape.inv` lemmas put it together, so that a proof about a step treats one shape at a
time, with every field it needs known. -/

namespace Sys2Proof.Machine

/-- What the invariant says in every shape. -/
structure CommonFacts (s : State) : Prop where
  cfg_legal : s.cfg.Legal
  tx_wf : Memory.wf s.tx = true
  rom_crc : s.enabled = true →
    s.rom.b7 = crc8 [s.rom.b0, s.rom.b1, s.rom.b2, s.rom.b3, s.rom.b4, s.rom.b5, s.rom.b6]
  timer_future : ∀ e, s.timer = some e → s.now ≤ e.deadline
  low_past : ∀ t, s.lowStart = some t → s.lineSeen = false ∧ t ≤ s.now

/-- No operation and no owner (R22, R41). -/
structure NoOperation (s : State) : Prop where
  op : s.op = .idle
  curBit : s.curBit = none
  ps : s.ps = none
  txSrc : s.txSrc = none
  stale : s.stale = false

/-- The timer is disarmed, or holds a reset check for a low that has been seen (R41 (d)). -/
def TimerIdle (s : State) : Prop :=
  s.timer = none ∨ ∃ d t0, s.timer = some ⟨d, .resetCheck⟩ ∧ s.lowStart = some t0

/-- Disabled (R22). -/
structure DisabledShape (s : State) : Prop extends CommonFacts s, NoOperation s where
  enabled : s.enabled = false
  fsm : s.fsm = .disabled
  timer : s.timer = none
  lowStart : s.lowStart = none
  driveLow : s.driveLow = false

/-- Waiting for a reset (R41). -/
structure WaitingShape (s : State) : Prop extends CommonFacts s, NoOperation s where
  enabled : s.enabled = true
  fsm : s.fsm = .waitingForReset
  timer : TimerIdle s
  driveLow : s.driveLow = false

/-- Asserting presence (R23, R41). -/
structure PresenceShape (s : State) : Prop extends CommonFacts s, NoOperation s where
  enabled : s.enabled = true
  fsm : s.fsm = .assertingPresence
  phase : (s.apPhase = .wait ∧ s.driveLow = false ∧ ∃ d, s.timer = some ⟨d, .beginPresence⟩) ∨
    (s.apPhase = .pulse ∧ s.driveLow = true ∧ ∃ d, s.timer = some ⟨d, .endPresence⟩)
  lowStart : s.lowStart = none

/-- Whose the outstanding operation is: the state of the protocol that goes with it (R29, R36, R37, R41).
`live` is false for an operation that belongs to a cancelled owner, of which only R41 (e) is known. -/
inductive Owner (s : State) (receives live : Bool) : Prop where
  | command (fsm : s.fsm = .receivingCommand) (ps : s.ps = none) (src : s.txSrc = none)
      (r : receives = true) (l : live = true) (rx : s.rxLen = 1 ∧ s.rxByte = 0)
  | search (fsm : s.fsm = .searchingRom) (ps : s.ps = none) (src : s.txSrc = none)
      (r : receives = true ↔ s.searchPhase = .recvDirection) (l : live = true)
  | matching (fsm : s.fsm = .matchingRom) (ps : s.ps = none) (src : s.txSrc = none)
      (r : receives = true) (l : live = true) (rx : s.rxLen = 8 ∧ s.rxByte.toNat < 8)
  | application (fsm : s.fsm = .receivingApplicationByte) (ps : s.ps = none) (src : s.txSrc = none)
      (r : live = true → receives = true) (rx : s.rxLen = 1 ∧ s.rxByte = 0)
  | readRom (fsm : s.fsm = .sendingBytes) (ps : s.ps = none) (src : s.txSrc = some .rom)
      (r : receives = false) (l : live = true) (cur : s.txCur.toNat < 64)
  | client (p : PendingSend) (fsm : s.fsm = .sendingBytes) (ps : s.ps = some p)
      (src : s.txSrc = some .client) (range : p.InRange) (r : live = true → receives = false)

/-- An operation armed for the next slot (R30). -/
structure ArmedShape (s : State) : Prop extends CommonFacts s where
  enabled : s.enabled = true
  op : s.op.armed = true
  curBit : s.curBit = s.op.sentBit
  stale : s.stale = false
  timer : TimerIdle s
  driveLow : s.driveLow = false
  owner : Owner s (s.op == .recvArmed) true

/-- A slot is being received: its Sample is scheduled (R150). -/
structure SamplingShape (s : State) : Prop extends CommonFacts s where
  enabled : s.enabled = true
  op : s.op = .recvSampling
  curBit : s.curBit = none
  timer : ∃ d, s.timer = some ⟨d, .sample⟩
  driveLow : s.driveLow = false
  owner : Owner s true (!s.stale)

/-- A 0 is being sent: its HoldEnd is scheduled (R152). -/
structure HoldingShape (s : State) : Prop extends CommonFacts s where
  enabled : s.enabled = true
  op : s.op = .send0Holding
  curBit : s.curBit = some false
  timer : ∃ d, s.timer = some ⟨d, .holdEnd⟩
  driveLow : s.driveLow = true
  low : ∃ t0, s.lowStart = some t0
  owner : Owner s false (!s.stale)

theorem DisabledShape.inv {s : State} (h : DisabledShape s) : Inv s := by
  obtain ⟨⟨h1, h2, h3, h4, h5⟩, ⟨a1, a2, a3, a4, a5⟩, b1, b2, b3, b4, b5⟩ := h
  constructor <;>
    first
    | assumption
    | simp [a1, a2, a3, a4, a5, b1, b2, b3, b4, b5, BitOp.sentBit, BitOp.receives, BitOp.sends]

theorem WaitingShape.inv {s : State} (h : WaitingShape s) : Inv s := by
  obtain ⟨⟨h1, h2, h3, h4, h5⟩, ⟨a1, a2, a3, a4, a5⟩, b1, b2, b3, b4⟩ := h
  constructor <;>
    first
    | assumption
    | rcases b3 with b3 | ⟨d, t0, b3, b5⟩ <;>
        simp_all [BitOp.sentBit, BitOp.receives, BitOp.sends, BitOp.inFlight]

theorem PresenceShape.inv {s : State} (h : PresenceShape s) : Inv s := by
  obtain ⟨⟨h1, h2, h3, h4, h5⟩, ⟨a1, a2, a3, a4, a5⟩, b1, b2, b3, b4⟩ := h
  constructor <;>
    first
    | assumption
    | rcases b3 with ⟨b5, b6, d, b7⟩ | ⟨b5, b6, d, b7⟩ <;>
        simp_all [BitOp.sentBit, BitOp.receives, BitOp.sends]

/-- What the owner says of the fields that no other part of a shape fixes. -/
theorem Owner.facts {s : State} {r l : Bool} (h : Owner s r l) :
    (s.fsm ≠ .disabled ∧ s.fsm ≠ .waitingForReset ∧ s.fsm ≠ .assertingPresence) ∧
    (s.ps.isSome = true ↔ (s.fsm = .sendingBytes ∧ s.txSrc = some .client)) ∧
    (∀ p, s.ps = some p → p.InRange) ∧
    (s.txSrc.isSome = true ↔ s.fsm = .sendingBytes) ∧
    (s.fsm = .sendingBytes → s.txSrc = some .rom → s.txCur.toNat < 64) ∧
    (l = false → s.fsm = .receivingApplicationByte ∨
      (s.fsm = .sendingBytes ∧ s.txSrc = some .client)) ∧
    (r = true → l = true → s.fsm = .receivingCommand ∨ s.fsm = .matchingRom ∨
      s.fsm = .receivingApplicationByte ∨ (s.fsm = .searchingRom ∧ s.searchPhase = .recvDirection)) ∧
    (r = false → l = true →
      s.fsm = .sendingBytes ∨ (s.fsm = .searchingRom ∧ s.searchPhase ≠ .recvDirection)) ∧
    (s.fsm = .matchingRom → s.rxLen = 8 ∧ s.rxByte.toNat < 8) ∧
    (s.fsm = .receivingCommand ∨ s.fsm = .receivingApplicationByte → s.rxLen = 1 ∧ s.rxByte = 0) := by
  cases h with
  | command fsm ps src hr hl rx => simp [fsm, ps, src, hr, hl, rx]
  | search fsm ps src hr hl =>
    simp only [fsm, ps, src, hl, hr]
    cases r <;> simp_all
  | matching fsm ps src hr hl rx => simp [fsm, ps, src, hr, hl, rx]
  | application fsm ps src hr rx =>
    cases l <;> simp_all
  | readRom fsm ps src hr hl cur => simp [fsm, ps, src, hr, hl, cur]
  | client p fsm ps src range hr =>
    cases l <;> simp_all

/-- The owner, from what the invariant says. -/
theorem Inv.owner {s : State} (h : Inv s) (r : Bool)
    (hr : r = true → s.op.receives) (hs : r = false → s.op.sends) : Owner s r (!s.stale) := by
  have hidle : s.op ≠ .idle := by
    intro h0
    cases r with
    | true => simpa [h0, BitOp.receives] using hr rfl
    | false => simpa [h0, BitOp.sends] using hs rfl
  have hst := h.stale_in_flight
  have h1 := h.idle_iff
  have h2 := h.ps_iff
  have h3 := h.tx_src
  have h5 : s.fsm ≠ .sendingBytes → s.ps = none ∧ s.txSrc = none := fun hf => by simp_all
  have ho : r = true → s.stale = false → _ := fun a b => h.recv_owner (hr a) b
  have hw : r = false → s.stale = false → _ := fun a b => h.send_owner (hs a) b
  cases hf : s.fsm with
  | disabled => simp_all
  | waitingForReset => simp_all
  | assertingPresence => simp_all
  | receivingCommand =>
    have hst' : s.stale = false := by cases hx : s.stale <;> simp_all
    have := h5 (by simp [hf])
    exact .command hf this.1 this.2 (by cases r <;> simp_all) (by simp [hst'])
      (h.rx_one (.inl hf))
  | searchingRom =>
    have hst' : s.stale = false := by cases hx : s.stale <;> simp_all
    have := h5 (by simp [hf])
    exact .search hf this.1 this.2 (by cases r <;> simp_all) (by simp [hst'])
  | matchingRom =>
    have hst' : s.stale = false := by cases hx : s.stale <;> simp_all
    have := h5 (by simp [hf])
    exact .matching hf this.1 this.2 (by cases r <;> simp_all) (by simp [hst']) (h.rx_match hf)
  | receivingApplicationByte =>
    have := h5 (by simp [hf])
    exact .application hf this.1 this.2 (by cases r <;> simp_all) (h.rx_one (.inr hf))
  | sendingBytes =>
    cases hsrc : s.txSrc with
    | none => simp_all
    | some src =>
      cases src with
      | rom =>
        have hst' : s.stale = false := by cases hx : s.stale <;> simp_all
        have hps : s.ps = none := by simp_all
        exact .readRom hf hps hsrc (by cases r <;> simp_all) (by simp [hst']) (h.tx_cur hf hsrc)
      | client =>
        cases hps : s.ps with
        | none => simp_all
        | some p => exact .client p hf hps hsrc (h.ps_range p hps) (by cases r <;> simp_all)

theorem ArmedShape.inv {s : State} (h : ArmedShape s) : Inv s := by
  obtain ⟨⟨h1, h2, h3, h4, h5⟩, b1, b2, b3, b4, b5, b6, b7⟩ := h
  obtain ⟨⟨f1, f2, f3⟩, c1, c2, c3, c4, c5, c6, c7, c8, c9⟩ := b7.facts
  have hne : s.op ≠ .idle ∧ s.op ≠ .recvSampling ∧ s.op ≠ .send0Holding ∧ s.op.inFlight = false := by
    cases ho : s.op <;> simp_all [BitOp.armed, BitOp.inFlight]
  obtain ⟨n1, n2, n3, n4⟩ := hne
  constructor
  case recv_owner =>
    rintro (ho | ho) - <;> simp_all
  case send_owner =>
    rintro (ho | ho | ho) - <;> simp_all
  case timer_check =>
    rintro t ht
    rcases b5 with b5 | ⟨d, t0, b5, b8⟩ <;> simp_all
  case low_start => exact fun t ht => ⟨(h5 t ht).1, (h5 t ht).2, f3⟩
  all_goals first
    | assumption
    | rcases b5 with b5 | ⟨d, t0, b5, b8⟩ <;> simp [*]

theorem SamplingShape.inv {s : State} (h : SamplingShape s) : Inv s := by
  obtain ⟨⟨h1, h2, h3, h4, h5⟩, b1, b2, b3, ⟨d, b5⟩, b6, b7⟩ := h
  obtain ⟨⟨f1, f2, f3⟩, c1, c2, c3, c4, c5, c6, c7, c8, c9⟩ := b7.facts
  constructor
  case low_start => exact fun t ht => ⟨(h5 t ht).1, (h5 t ht).2, f3⟩
  case recv_owner => exact fun _ hs => c6 rfl (by simp [hs])
  case stale_in_flight => exact fun hs => ⟨by simp [b2, BitOp.inFlight], c5 (by simp [hs])⟩
  case send_owner => simp [b2, BitOp.sends]
  all_goals first
    | assumption
    | simp [b1, b2, b3, b5, b6, f1, f2, f3, BitOp.sentBit]

theorem HoldingShape.inv {s : State} (h : HoldingShape s) : Inv s := by
  obtain ⟨⟨h1, h2, h3, h4, h5⟩, b1, b2, b3, ⟨d, b5⟩, b6, ⟨t0, b8⟩, b7⟩ := h
  obtain ⟨⟨f1, f2, f3⟩, c1, c2, c3, c4, c5, c6, c7, c8, c9⟩ := b7.facts
  constructor
  case low_start => exact fun t ht => ⟨(h5 t ht).1, (h5 t ht).2, f3⟩
  case send_owner => exact fun _ hs => c7 rfl (by simp [hs])
  case stale_in_flight => exact fun hs => ⟨by simp [b2, BitOp.inFlight], c5 (by simp [hs])⟩
  case recv_owner => simp [b2, BitOp.receives]
  all_goals first
    | assumption
    | simp [b1, b2, b3, b5, b6, b8, f1, f2, f3, BitOp.sentBit]

/-- The timer of a state in which no callback of the protocol or of a slot is awaited. -/
theorem Inv.timerIdle {s : State} (h : Inv s) (h1 : s.op ≠ .recvSampling) (h2 : s.op ≠ .send0Holding)
    (h3 : s.fsm ≠ .assertingPresence) : TimerIdle s := by
  rcases ht : s.timer with _ | ⟨d, cb⟩
  · exact .inl ht
  · right
    cases cb with
    | beginPresence => exact absurd (h.timer_begin.2 ⟨d, ht⟩).1 h3
    | endPresence => exact absurd (h.timer_end.2 ⟨d, ht⟩).1 h3
    | sample => exact absurd (h.timer_sample.2 ⟨d, ht⟩) h1
    | holdEnd => exact absurd (h.timer_hold.2 ⟨d, ht⟩) h2
    | resetCheck =>
      obtain ⟨t0, h0⟩ := Option.isSome_iff_exists.mp (h.timer_check d ht).1
      exact ⟨d, t0, ht, h0⟩

/-- A state with the invariant has one of the six shapes. -/
theorem inv_shapes {s : State} (h : Inv s) :
    DisabledShape s ∨ WaitingShape s ∨ PresenceShape s ∨ ArmedShape s ∨ SamplingShape s ∨
      HoldingShape s := by
  have common : CommonFacts s := ⟨h.cfg_legal, h.tx_wf, h.rom_crc, h.timer_future,
    fun t ht => ⟨(h.low_start t ht).1, (h.low_start t ht).2.1⟩⟩
  have hen := h.enabled_iff
  have hcb := h.cur_bit
  have hdl := h.drive_low
  have hst := h.stale_in_flight
  have hstale : s.op.inFlight = false → s.stale = false := fun hf => by
    cases hx : s.stale <;> simp_all
  cases ho : s.op with
  | idle =>
    have hps := h.ps_iff
    have htx := h.tx_src
    have hf := h.idle_iff.1 ho
    have noop : NoOperation s := by
      rcases hf with hf | hf | hf <;>
        exact ⟨ho, by rw [hcb, ho]; rfl, by simp_all, by simp_all, hstale (by rw [ho]; rfl)⟩
    rcases hf with hf | hf | hf
    · left
      have hq := h.disabled_quiet hf
      exact ⟨common, noop, by simp_all, hf, hq.1, hq.2, by simp_all⟩
    · right; left
      exact ⟨common, noop, by simp_all, hf, h.timerIdle (by simp [ho]) (by simp [ho]) (by simp [hf]),
        by simp_all⟩
    · right; right; left
      have hb := h.timer_begin
      have he := h.timer_end
      refine ⟨common, noop, by simp_all, hf, ?_, ?_⟩
      · cases hp : s.apPhase with
        | wait => left; exact ⟨rfl, by simp_all, hb.1 ⟨hf, hp⟩⟩
        | pulse => right; exact ⟨rfl, hdl.2 (.inr ⟨hf, hp⟩), he.1 ⟨hf, hp⟩⟩
      · cases hl : s.lowStart with
        | none => rfl
        | some t => exact absurd hf (h.low_start t hl).2.2
  | recvSampling =>
    right; right; right; right; left
    have hi := h.idle_iff
    exact ⟨common, by simp_all, ho, by rw [hcb, ho]; rfl, h.timer_sample.1 ho, by simp_all,
      h.owner true (fun _ => .inr ho) (fun x => by cases x)⟩
  | send0Holding =>
    right; right; right; right; right
    have hi := h.idle_iff
    exact ⟨common, by simp_all, ho, by rw [hcb, ho]; rfl, h.timer_hold.1 ho, hdl.2 (.inl ho),
      Option.isSome_iff_exists.mp (h.hold_low ho),
      h.owner false (fun x => by cases x) (fun _ => .inr (.inr ho))⟩
  | recvArmed =>
    right; right; right; left
    have hi := h.idle_iff
    have hx := hstale (by rw [ho]; rfl)
    have hw := h.owner true (fun _ => .inl ho) (fun x => by cases x)
    rw [hx] at hw
    exact ⟨common, by simp_all, by rw [ho]; rfl, hcb, hx,
      h.timerIdle (by simp [ho]) (by simp [ho]) (by simp_all), by simp_all, by rw [ho]; exact hw⟩
  | send1Armed =>
    right; right; right; left
    have hi := h.idle_iff
    have hx := hstale (by rw [ho]; rfl)
    have hw := h.owner false (fun x => by cases x) (fun _ => .inl ho)
    rw [hx] at hw
    exact ⟨common, by simp_all, by rw [ho]; rfl, hcb, hx,
      h.timerIdle (by simp [ho]) (by simp [ho]) (by simp_all), by simp_all, by rw [ho]; exact hw⟩
  | send0Armed =>
    right; right; right; left
    have hi := h.idle_iff
    have hx := hstale (by rw [ho]; rfl)
    have hw := h.owner false (fun x => by cases x) (fun _ => .inr (.inl ho))
    rw [hx] at hw
    exact ⟨common, by simp_all, by rw [ho]; rfl, hcb, hx,
      h.timerIdle (by simp [ho]) (by simp [ho]) (by simp_all), by simp_all, by rw [ho]; exact hw⟩

end Sys2Proof.Machine
end

