-- ==== Sys2Proof/Laws/Memory.lean ====
section
/-! SUPPORT. The client's memory: a read after a write, and the canonical form that every write keeps
(20_memory.md R60, R63). -/

namespace Sys2Proof.Machine

/-- A memory with every cell above `lo` reads as unlisted at and below `lo`. -/
theorem memory_read_below (m : Memory) (lo a : Nat) (h : Memory.wfAbove (some lo) m = true)
    (ha : a ≤ lo) : Memory.read m a = Memory.unlisted := by
  induction m generalizing lo with
  | nil => rfl
  | cons c rest ih =>
    obtain ⟨b, v⟩ := c
    simp only [Memory.wfAbove, Bool.and_eq_true, decide_eq_true_eq] at h
    obtain ⟨⟨hlt, -⟩, hr⟩ := h
    simp only [Memory.read, if_neg (show b ≠ a by omega)]
    exact ih b hr (by omega)

/-- A lower bound may be lowered or dropped. -/
theorem memory_wfAbove_weaken (m : Memory) (l : Nat) (lo : Option Nat)
    (h : Memory.wfAbove (some l) m = true) (hlo : ∀ k, lo = some k → k ≤ l) :
    Memory.wfAbove lo m = true := by
  cases m with
  | nil => rfl
  | cons c rest =>
    obtain ⟨b, v⟩ := c
    simp only [Memory.wfAbove, Bool.and_eq_true, decide_eq_true_eq] at h ⊢
    refine ⟨⟨?_, h.1.2⟩, h.2⟩
    cases lo with
    | none => rfl
    | some k =>
      have := hlo k rfl
      have := h.1.1
      simp only [decide_eq_true_eq]
      omega

/-- A write keeps the canonical form above every bound that the address exceeds. -/
theorem memory_write_wfAbove (m : Memory) (lo : Option Nat) (a : Nat) (v : Byte)
    (h : Memory.wfAbove lo m = true) (ha : ∀ k, lo = some k → k < a) :
    Memory.wfAbove lo (Memory.write m a v) = true := by
  induction m generalizing lo with
  | nil =>
    simp only [Memory.write]
    split
    · rfl
    · cases lo with
      | none => simpa [Memory.wfAbove]
      | some k => simpa [Memory.wfAbove] using ⟨ha k rfl, ‹_›⟩
  | cons c rest ih =>
    obtain ⟨b, w⟩ := c
    have hlo : ∀ lt, lo = some lt → lt < b := fun lt e => by
      subst e; simp only [Memory.wfAbove, Bool.and_eq_true, decide_eq_true_eq] at h; exact h.1.1
    have hr : Memory.wfAbove (some b) rest = true := by
      simp only [Memory.wfAbove, Bool.and_eq_true] at h; exact h.2
    have hw : w ≠ Memory.unlisted := by
      simp only [Memory.wfAbove, Bool.and_eq_true, decide_eq_true_eq] at h; exact h.1.2
    have hcons : ∀ (lo' : Option Nat) (x : Nat) (u : Byte) (t : Memory), (∀ k, lo' = some k → k < x) →
        u ≠ Memory.unlisted → Memory.wfAbove (some x) t = true →
        Memory.wfAbove lo' ((x, u) :: t) = true := fun lo' x u t h1 h2 h3 => by
      cases lo' with
      | none => simp [Memory.wfAbove, h2, h3]
      | some k => simp [Memory.wfAbove, h2, h3, h1 k rfl]
    simp only [Memory.write]
    split
    · split
      · exact h
      · exact hcons _ _ _ _ ha ‹_› (hcons _ _ _ _ (fun k e => by cases e; assumption) hw hr)
    · split
      · split
        · exact memory_wfAbove_weaken rest b lo hr (fun k e => Nat.le_of_lt (hlo k e))
        · subst a; exact hcons _ _ _ _ ha ‹_› hr
      · exact hcons _ _ _ _ hlo hw (ih (some b) hr (fun k e => by cases e; omega))

/-- Every store by the client keeps the canonical form. -/
theorem memory_write_wf (m : Memory) (a : Nat) (v : Byte) (h : Memory.wf m = true) :
    Memory.wf (Memory.write m a v) = true :=
  memory_write_wfAbove m none a v h (fun _ e => by cases e)

/-- Reading after a write, above any bound. -/
theorem memory_read_write_above (m : Memory) (lo : Option Nat) (a b : Nat) (v : Byte)
    (h : Memory.wfAbove lo m = true) :
    Memory.read (Memory.write m a v) b = if b = a then v else Memory.read m b := by
  induction m generalizing lo with
  | nil =>
    simp only [Memory.write]
    by_cases hb : b = a
    · subst hb; split <;> simp_all [Memory.read]
    · split <;> simp [Memory.read, Ne.symm hb]
  | cons c rest ih =>
    obtain ⟨x, w⟩ := c
    have hr : Memory.wfAbove (some x) rest = true := by
      simp only [Memory.wfAbove, Bool.and_eq_true] at h; exact h.2
    have hlow : ∀ k, k ≤ x → Memory.read rest k = Memory.unlisted :=
      fun k hk => memory_read_below rest x k hr hk
    simp only [Memory.write]
    split
    · split
      · by_cases hb : b = a
        · subst hb
          simp only [Memory.read, if_neg (show x ≠ b by omega), if_true]
          rw [hlow b (by omega)]; exact (Eq.symm ‹_›)
        · simp [hb]
      · by_cases hb : b = a
        · simp [hb, Memory.read]
        · simp [hb, Memory.read, Ne.symm hb]
    · split
      · subst a
        split
        · by_cases hb : b = x
          · subst hb; simp only [if_true]; rw [hlow b (by omega)]; exact (Eq.symm ‹_›)
          · simp [hb, Memory.read, Ne.symm hb]
        · by_cases hb : b = x
          · simp [hb, Memory.read]
          · simp [hb, Memory.read, Ne.symm hb]
      · simp only [Memory.read, ih (some x) hr]
        split
        · subst b; simp [show x ≠ a by omega]
        · rfl

/-- A byte that has been stored reads as it was stored, and every other byte reads as before. -/
theorem memory_read_write (m : Memory) (a b : Nat) (v : Byte) (h : Memory.wf m = true) :
    Memory.read (Memory.write m a v) b = if b = a then v else Memory.read m b :=
  memory_read_write_above m none a b v h

/-- The memory at reset lists nothing, so it has the canonical form. -/
theorem memory_reset_wf : Memory.wf State.reset.tx = true := rfl

end Sys2Proof.Machine
end

