-- ==== Sys2Proof/Laws/PerInstr.lean ====
section
/-! SUPPORT. The laws made per instruction: how each instruction reaches the block, as a byte of the wire
or as a code at the client port (30_encoding.md R98, R102). -/

namespace Sys2Proof.Laws.EncodedKind

/-- A well-formed instruction is encoded as a command byte if it is one of the seven command rows, with
the byte of table T-ROMCMD; otherwise as a client request with the code of table T-CLIENTOP. -/
def Statement (i : Instr) : Prop :=
  i.WellFormed →
    match i with
    | .searchRom => encode i = .command 0xF0
    | .condSearch => encode i = .command 0xEC
    | .readRom => encode i = .command 0x33
    | .matchRom => encode i = .command 0x55
    | .skipRom => encode i = .command 0xCC
    | .resume => encode i = .command 0xA5
    | .unknownCommand v => encode i = .command v ∧ v ∉ romCommandBytes
    | .beginOp _ _ _ => ∃ r, encode i = .client r ∧ r.code = 0
    | .endOp => ∃ r, encode i = .client r ∧ r.code = 1
    | .setRecvCb _ => ∃ r, encode i = .client r ∧ r.code = 2
    | .setBitCb _ => ∃ r, encode i = .client r ∧ r.code = 3
    | .alarmed _ => ∃ r, encode i = .client r ∧ r.code = 4
    | .write _ _ _ => ∃ r, encode i = .client r ∧ r.code = 5
    | .writeBit _ _ _ => ∃ r, encode i = .client r ∧ r.code = 6
    | .stopWrite => ∃ r, encode i = .client r ∧ r.code = 7
    | .crc8 _ => ∃ r, encode i = .client r ∧ r.code = 8
    | .clientReserved c => (∃ r, encode i = .client r ∧ r.code = c) ∧ 9 ≤ c.toNat

theorem searchRom : Statement .searchRom := fun _ => rfl
theorem condSearch : Statement .condSearch := fun _ => rfl
theorem readRom : Statement .readRom := fun _ => rfl
theorem matchRom : Statement .matchRom := fun _ => rfl
theorem skipRom : Statement .skipRom := fun _ => rfl
theorem resume : Statement .resume := fun _ => rfl
theorem unknownCommand (v : Byte) : Statement (.unknownCommand v) := fun h => ⟨rfl, by
  simpa [Instr.WellFormed, Instr.wf] using h⟩
theorem beginOp (rom : Bytes7) (eighth : Option Byte) (pin : Nat) :
    Statement (.beginOp rom eighth pin) := fun _ => ⟨_, rfl, rfl⟩
theorem endOp : Statement .endOp := fun _ => ⟨_, rfl, rfl⟩
theorem setRecvCb (en : Bool) : Statement (.setRecvCb en) := fun _ => ⟨_, rfl, rfl⟩
theorem setBitCb (en : Bool) : Statement (.setBitCb en) := fun _ => ⟨_, rfl, rfl⟩
theorem alarmed (v : Bool) : Statement (.alarmed v) := fun _ => ⟨_, rfl, rfl⟩
theorem write (buf : Option Nat) (len : Nat) (hasCb : Bool) : Statement (.write buf len hasCb) :=
  fun _ => ⟨_, rfl, rfl⟩
theorem writeBit (value again hasCb : Bool) : Statement (.writeBit value again hasCb) :=
  fun _ => ⟨_, rfl, rfl⟩
theorem stopWrite : Statement .stopWrite := fun _ => ⟨_, rfl, rfl⟩
theorem crc8 (bytes : List Byte) : Statement (.crc8 bytes) := fun _ => ⟨_, rfl, rfl⟩
theorem clientReserved (c : BitVec 4) : Statement (.clientReserved c) := fun h =>
  ⟨⟨_, rfl, rfl⟩, by simpa [Instr.WellFormed, Instr.wf] using h⟩

end Sys2Proof.Laws.EncodedKind
end

