-- ==== Sys2Proof/Laws/Reactions.lean ====
section
/-! SUPPORT. `Kept` for every reaction of the block: the byte layer, the ROM commands, the edges, the
callbacks and the queueing of a send; and `clientOperation_cases`, what a client operation can do. -/

namespace Sys2Proof.Machine

/-! ### The byte layer (43_byte_layer.md) -/

theorem kept_sendComplete (s : State) : Kept s (sendComplete s) := by
  unfold sendComplete
  refine Kept.trans ?_ (kept_enterAppLoop _)
  refine Kept.trans ?_ (kept_emitIf _ _ _)
  exact .of_fields rfl rfl rfl rfl rfl rfl

theorem keptOf_clientSendProgress (s : State) : KeptOf s (clientSendProgress s) := by
  unfold clientSendProgress
  split
  · exact keptOf_fault _ _
  · split
    · split
      · exact keptOf_next (kept_armSend _ _)
      · exact keptOf_next (kept_sendComplete s)
    · rename_i buf len byteCur bitCur _
      dsimp only
      generalize (if bitCur = 7 then byteCur + 1 else byteCur) = next
      split
      · refine keptOf_next (Kept.trans ?_ (kept_sendComplete _))
        exact .of_fields rfl rfl rfl rfl rfl rfl
      · refine KeptOf.of_kept ?_ (keptOf_armPsBit _)
        exact .of_fields rfl rfl rfl rfl rfl rfl

theorem keptOf_armNext (s : State) : KeptOf s (armNext s) := by
  unfold armNext
  split
  · exact keptOf_armPsBit _
  · exact keptOf_next (kept_armRecv s)

theorem keptOf_readRomProgress (s : State) : KeptOf s (readRomProgress s) := by
  unfold readRomProgress
  have hk : Kept s { s with txCur := s.txCur + 1 } := .of_fields rfl rfl rfl rfl rfl rfl
  dsimp only
  split
  · exact keptOf_next (hk.trans (kept_enterAppLoop _))
  · split
    · exact keptOf_next (hk.trans (kept_armSend _ _))
    · exact keptOf_fault _ _

theorem kept_searchSendDone (s : State) : Kept s (searchSendDone s) := by
  unfold searchSendDone
  split <;> exact .of_fields rfl rfl rfl rfl rfl rfl

theorem kept_searchRecvDone (b : Bool) (s : State) : Kept s (searchRecvDone b s) := by
  unfold searchRecvDone
  split
  · exact kept_enterWFR s
  · split
    · refine Kept.trans ?_ (kept_enterWFR _)
      exact .of_fields rfl rfl rfl rfl rfl rfl
    · exact .of_fields rfl rfl rfl rfl rfl rfl

theorem keptOf_sendBitDone (s : State) : KeptOf s (sendBitDone s) := by
  unfold sendBitDone
  split
  · refine KeptOf.of_kept ?_ (keptOf_armNext _)
    exact .of_fields rfl rfl rfl rfl rfl rfl
  · split
    · exact keptOf_next (kept_searchSendDone s)
    · exact keptOf_readRomProgress s
    · exact keptOf_clientSendProgress s
    · exact keptOf_fault _ _

/-! ### The ROM commands and the receives (44_protocol_fsm.md) -/

theorem keptOf_command (v : Byte) (s : State) : KeptOf s (exec (decodeCommand v) s) := by
  unfold decodeCommand
  split_ifs <;> simp only [exec]
  · exact keptOf_next (kept_startSearch s)
  · refine keptOf_next ?_
    split
    · exact kept_startSearch s
    · exact kept_enterWFR s
  · exact keptOf_next (.of_fields rfl rfl rfl rfl rfl rfl)
  · exact keptOf_next (kept_enterAppLoop s)
  · exact keptOf_next (.of_fields rfl rfl rfl rfl rfl rfl)
  · refine keptOf_next ?_
    split
    · exact kept_enterAppLoop s
    · exact kept_enterWFR s
  · exact keptOf_next (kept_raiseError _ s)

theorem kept_matchCompare (s : State) : Kept s (matchCompare s) := by
  unfold matchCompare
  split
  · exact .of_fields rfl rfl rfl rfl rfl rfl
  · refine Kept.trans ?_ (kept_enterWFR _)
    exact .of_fields rfl rfl rfl rfl rfl rfl

theorem keptOf_matchByte (v : Byte) (s : State) : KeptOf s (matchByte v s) := by
  unfold matchByte
  split
  · dsimp only
    split
    · exact keptOf_next (.of_fields rfl rfl rfl rfl rfl rfl)
    · refine keptOf_next (Kept.trans ?_ (kept_matchCompare _))
      exact .of_fields rfl rfl rfl rfl rfl rfl
  · exact keptOf_fault _ _

theorem keptOf_byteComplete (s : State) : KeptOf s (byteComplete s) := by
  unfold byteComplete
  have hk : Kept s { s with rxAcc := 0, rxBit := 0 } := .of_fields rfl rfl rfl rfl rfl rfl
  dsimp only
  split <;> try exact keptOf_fault _ _
  · exact KeptOf.of_kept hk (keptOf_command _ _)
  · exact KeptOf.of_kept hk (keptOf_matchByte _ _)
  · exact keptOf_next (hk.trans ((kept_emitIf _ _ _).trans (kept_armRecv _)))

theorem keptOf_accumulate (b : Bool) (s : State) : KeptOf s (accumulate b s) := by
  unfold accumulate
  dsimp only
  split
  · exact keptOf_next (.of_fields rfl rfl rfl rfl rfl rfl)
  · refine KeptOf.of_kept ?_ (keptOf_byteComplete _)
    exact .of_fields rfl rfl rfl rfl rfl rfl

theorem keptOf_recvBitDone (b err : Bool) (s : State) : KeptOf s (recvBitDone b err s) := by
  unfold recvBitDone
  split
  · refine KeptOf.of_kept ?_ (keptOf_armNext _)
    exact .of_fields rfl rfl rfl rfl rfl rfl
  · split
    · exact keptOf_next (kept_raiseError _ _)
    · split
      · exact keptOf_next (kept_searchRecvDone _ _)
      · split
        · exact KeptOf.of_kept (kept_emitIf _ _ _) (keptOf_accumulate _ _)
        · exact keptOf_accumulate _ _

/-! ### The edges and the callbacks (42_bit_transceiver.md) -/

theorem kept_classifyPulse (d : Nat) (s : State) : Kept s (classifyPulse d s) := by
  unfold classifyPulse
  split
  · exact Kept.refl _
  · split
    · exact kept_raiseError _ _
    · unfold resetAccepted
      refine Kept.trans ?_ (kept_emitIf _ _ _)
      exact .of_fields rfl rfl rfl rfl rfl rfl

theorem keptOf_rise (s : State) : KeptOf s (rise s) := by
  unfold rise
  split
  · exact keptOf_next (Kept.refl s)
  · have hk : Kept s { s with lowStart := none, timer := withoutResetCheck s.timer } :=
      .of_fields rfl rfl rfl rfl rfl rfl
    dsimp only
    split
    · exact keptOf_next (hk.trans (kept_classifyPulse _ _))
    · exact keptOf_next hk

theorem keptOf_startSlot (s : State) : KeptOf s (startSlot s) := by
  unfold startSlot
  split
  · exact keptOf_next (.of_fields rfl rfl rfl rfl rfl rfl)
  · refine KeptOf.of_kept ?_ (keptOf_sendBitDone _)
    rw [scheduleResetCheck_eq]
    exact .of_fields rfl rfl rfl rfl rfl rfl
  · exact keptOf_next (.of_fields rfl rfl rfl rfl rfl rfl)
  all_goals exact keptOf_next (Kept.refl _)

theorem keptOf_fall (s : State) : KeptOf s (fall s) := by
  unfold fall
  split
  · exact keptOf_next (Kept.refl s)
  · have hk : Kept s { s with lowStart := some s.now } := .of_fields rfl rfl rfl rfl rfl rfl
    dsimp only
    split
    · exact keptOf_next hk
    · exact KeptOf.of_kept hk (keptOf_startSlot _)

theorem keptOf_runCallback (cb : Callback) (s : State) : KeptOf s (runCallback cb s) := by
  unfold runCallback
  cases cb with
  | beginPresence => exact keptOf_next (.of_fields rfl rfl rfl rfl rfl rfl)
  | endPresence => exact keptOf_next (.of_fields rfl rfl rfl rfl rfl rfl)
  | sample =>
    refine KeptOf.of_kept ?_ (keptOf_recvBitDone _ _ _)
    rw [scheduleResetCheck_eq]
    exact .of_fields rfl rfl rfl rfl rfl rfl
  | holdEnd =>
    refine KeptOf.of_kept ?_ (keptOf_sendBitDone _)
    rw [scheduleResetCheck_eq]
    exact .of_fields rfl rfl rfl rfl rfl rfl
  | resetCheck =>
    refine keptOf_next ?_
    unfold resetCheck
    split
    · exact kept_enterWFR _
    · exact Kept.refl _

/-! ### The client port (45_client_port.md) -/

theorem kept_emptySend (s : State) : Kept s (emptySend s) := by
  unfold emptySend
  split
  · dsimp only
    split <;> exact .of_fields rfl rfl rfl rfl rfl rfl
  · exact Kept.refl _

theorem keptOf_armNewSend (p : PendingSend) (s : State) : KeptOf s (armNewSend p s) := by
  unfold armNewSend
  dsimp only
  split <;> first
    | exact keptOf_next (.of_fields rfl rfl rfl rfl rfl rfl)
    | refine KeptOf.of_kept ?_ (keptOf_armPsBit _)
      exact .of_fields rfl rfl rfl rfl rfl rfl

theorem keptOf_queueSend (new : Option PendingSend) (s : State) : KeptOf s (queueSend new s) := by
  unfold queueSend
  split
  · exact keptOf_next (Kept.refl s)
  · split
    · split
      · exact keptOf_next (Kept.refl s)
      · exact keptOf_next (kept_emitIf _ _ _)
    · split
      · exact keptOf_next ((kept_failPending s).trans (kept_emptySend _))
      · exact KeptOf.of_kept (kept_failPending s) (keptOf_armNewSend _ _)

/-- What queueing a send leaves alone besides what `Kept` names. -/
theorem queueSend_fields (new : Option PendingSend) (s t : State) (h : queueSend new s = .next t) :
    t.apPhase = s.apPhase ∧ t.rxBuf = s.rxBuf ∧ t.txCur = s.txCur ∧
    t.resumeAllowed = s.resumeAllowed ∧ t.searchPhase = s.searchPhase ∧ t.searchIdx = s.searchIdx ∧
    t.timer = s.timer ∧ t.driveLow = s.driveLow ∧ t.lowStart = s.lowStart := by
  unfold queueSend at h
  split at h
  · cases h; simp
  · split at h
    · split at h <;> cases h <;> simp
    · rw [failPending_eq] at h
      split at h
      · cases h
        unfold emptySend
        split
        · dsimp only
          split <;> simp [armRecv]
        · simp
      · unfold armNewSend at h
        dsimp only at h
        split at h <;> first
          | cases h; simp
          | obtain ⟨p, b, -, -, rfl⟩ := armPsBit_next _ t h; simp

/-- Everything a client operation can do, by the operation. -/
theorem clientOperation_cases (r : ClientReq) (s t : State)
    (h : exec (decode (.client r)) s = .next t) :
    (∃ rom eighth pin, decode (.client r) = .beginOp rom eighth pin ∧
      t = setUp rom (if s.enabled then tearDown s else s)) ∨
    (decode (.client r) = .endOp ∧ t = if s.enabled then tearDown s else s) ∨
    (∃ v, decode (.client r) = .setRecvCb v ∧ t = { s with recvCbEn := v }) ∨
    (∃ v, decode (.client r) = .setBitCb v ∧ t = { s with bitCbEn := v }) ∨
    (∃ v, decode (.client r) = .alarmed v ∧ t = { s with alarmed := v }) ∨
    ((r.code = 5 ∨ r.code = 6 ∨ r.code = 7) ∧ ∃ new, queueSend new s = .next t) ∨
    (r.code = 8 ∧ t = { s with result := some (crc8 r.bytes) }) ∨
    (9 ≤ r.code.toNat ∧ t = s) := by
  generalize hdec : decode (.client r) = i at h
  have hd := hdec
  simp only [decode, decodeClient] at hd
  split_ifs at hd with h0 h1 h2 h3 h4 h5 h6 h7 h8 <;> subst hd <;> simp only [exec] at h
  · cases h; exact .inl ⟨_, _, _, rfl, rfl⟩
  · cases h; exact .inr (.inl ⟨rfl, rfl⟩)
  · cases h; exact .inr (.inr (.inl ⟨_, rfl, rfl⟩))
  · cases h; exact .inr (.inr (.inr (.inl ⟨_, rfl, rfl⟩)))
  · cases h; exact .inr (.inr (.inr (.inr (.inl ⟨_, rfl, rfl⟩))))
  · exact .inr (.inr (.inr (.inr (.inr (.inl ⟨.inl h5, _, h⟩)))))
  · exact .inr (.inr (.inr (.inr (.inr (.inl ⟨.inr (.inl h6), _, h⟩)))))
  · exact .inr (.inr (.inr (.inr (.inr (.inl ⟨.inr (.inr h7), _, h⟩)))))
  · cases h; exact .inr (.inr (.inr (.inr (.inr (.inr (.inl ⟨h8, rfl⟩))))))
  · cases h
    have key : ∀ c : BitVec 4, (c = 0 ∨ c = 1 ∨ c = 2 ∨ c = 3 ∨ c = 4 ∨ c = 5 ∨ c = 6 ∨ c = 7 ∨
        c = 8) ∨ 9 ≤ c.toNat := by decide
    rcases key r.code with hk | hk
    · simp_all
    · exact .inr (.inr (.inr (.inr (.inr (.inr (.inr ⟨hk, rfl⟩))))))

end Sys2Proof.Machine
end

