-- ==== Sys2Proof/Laws/Step.lean ====
section
/-! SUPPORT. Which event a step takes and what the step of an event is (00_scope.md R13; 20_memory.md R71,
R77, R78). `step_cases` is the one inversion of a step; the claims about every step start from it. -/

namespace Sys2Proof.Machine

/-- Where no tie is settled the counter of ties stays. -/
theorem countTie_of_not_settled (s : State) (h : tieSettled s = false) : countTie s = s := by
  simp [countTie, h]

/-- A due edge is the next event, and settles no tie (R77). -/
theorem nextEvent_of_edgeDue (s : State) (l : Bool) (h : EdgeDue s l) :
    nextEvent s = .edge l ∧ tieSettled s = false := by
  obtain ⟨h1, h2⟩ := h
  have hne : s.line ≠ s.lineSeen := by rw [h1, h2]; cases l <;> simp
  simp [nextEvent, tieSettled, h1 ▸ hne, h1]

/-- A due reaction is the next event, and settles no tie (R71). -/
theorem nextEvent_of_reactionDue (s : State) (a : ClientAct) (rest : List Reaction)
    (h : ReactionDue s a rest) : nextEvent s = .reaction a rest ∧ tieSettled s = false := by
  obtain ⟨h1, n, h2, h3⟩ := h
  simp [nextEvent, tieSettled, dueReaction, h1, h2, h3]

/-- No reaction is chosen exactly where none is due. -/
theorem dueReaction_eq_none (s : State) : dueReaction s = none ↔ NoReaction s := by
  unfold dueReaction NoReaction
  cases h : s.reactions with
  | nil => simp
  | cons r rest => simp

/-- With no edge and no reaction due, the timer or the next input is chosen. -/
theorem nextEvent_of_noReaction (s : State) (h1 : s.line = s.lineSeen) (h2 : NoReaction s) :
    nextEvent s = timedEvent s := by
  simp [nextEvent, h1, (dueReaction_eq_none s).2 h2]

/-- A due timer is the next event, and settles no tie (R134). -/
theorem nextEvent_of_timerDue (s : State) (cb : Callback) (t : Nat) (h : TimerDue s cb t) :
    nextEvent s = .timer ⟨t, cb⟩ ∧ tieSettled s = false := by
  obtain ⟨h1, h0, h2, h3, h4⟩ := h
  rw [nextEvent_of_noReaction s h1 h0]
  have hn := (dueReaction_eq_none s).2 h0
  cases hi : s.inputs with
  | nil => simp [timedEvent, tieSettled, h1, hn, h2, hi]
  | cons i rest =>
    have hlt := h4 i rest hi
    have hne : ¬ (t = inputTime s i) := by simp only [inputTime]; omega
    have htd : tied s ⟨t, cb⟩ i = false := by simp [tied, hne]
    have hb : t < inputTime s i := by simp only [inputTime]; omega
    simp [timedEvent, tieSettled, h1, hn, h2, hi, timerBefore, htd, hb]

/-- A due input is the next event, and settles no tie. -/
theorem nextEvent_of_inputDue (s : State) (i : TimedInput) (rest : List TimedInput)
    (h : InputDue s i rest) : nextEvent s = .input i rest ∧ tieSettled s = false := by
  obtain ⟨h1, h0, h2, h3⟩ := h
  rw [nextEvent_of_noReaction s h1 h0]
  have hn := (dueReaction_eq_none s).2 h0
  cases ht : s.timer with
  | none => simp [timedEvent, tieSettled, h1, hn, h2, ht]
  | some e =>
    have hlt := h3 e ht
    have hne : ¬ (e.deadline = inputTime s i) := by simp only [inputTime]; omega
    have htd : tied s e i = false := by simp [tied, hne]
    have hb : ¬ (e.deadline < inputTime s i) := by simp only [inputTime]; omega
    simp [timedEvent, tieSettled, h1, hn, h2, ht, timerBefore, htd, hb]

/-- A step that does not settle a tie is the step of its event, on the state itself. -/
theorem step_of_nextEvent (s : State) (ev : Event) (h : nextEvent s = ev ∧ tieSettled s = false) :
    step s = runEvent ev s := by
  rw [step, advance, countTie_of_not_settled s h.2, h.1]

/-- What `timedEvent` chooses. -/
theorem timedEvent_cases (s : State) :
    (s.timer = none ∧ s.inputs = [] ∧ timedEvent s = .quiet) ∨
    (∃ e, s.timer = some e ∧ timedEvent s = .timer e) ∨
    (∃ i rest, s.inputs = i :: rest ∧ timedEvent s = .input i rest ∧
      ∀ e, s.timer = some e → inputTime s i ≤ e.deadline) := by
  cases ht : s.timer with
  | none =>
    cases hi : s.inputs with
    | nil => left; simp [timedEvent, ht, hi]
    | cons i rest => right; right; exact ⟨i, rest, rfl, by simp [timedEvent, ht, hi], by simp⟩
  | some e =>
    cases hi : s.inputs with
    | nil => right; left; exact ⟨e, rfl, by simp [timedEvent, ht, hi]⟩
    | cons i rest =>
      right
      by_cases hb : timerBefore s e i = true
      · left; exact ⟨e, rfl, by simp [timedEvent, ht, hi, hb]⟩
      · right
        refine ⟨i, rest, rfl, by simp [timedEvent, ht, hi, hb], ?_⟩
        rintro e' he
        cases he
        unfold timerBefore tied at hb
        split at hb
        · rename_i h
          simp only [beq_iff_eq] at h
          omega
        · simp only [decide_eq_true_eq] at hb
          omega

/-- Where the events of `nextEvent` come from. -/
theorem nextEvent_cases (s : State) :
    (s.line ≠ s.lineSeen ∧ nextEvent s = .edge s.line) ∨
    (s.line = s.lineSeen ∧ NoReaction s ∧ s.timer = none ∧ s.inputs = [] ∧ nextEvent s = .quiet) ∨
    (∃ e, s.line = s.lineSeen ∧ s.timer = some e ∧ nextEvent s = .timer e) ∨
    (∃ i rest, s.line = s.lineSeen ∧ s.inputs = i :: rest ∧ nextEvent s = .input i rest ∧
      ∀ e, s.timer = some e → inputTime s i ≤ e.deadline) ∨
    (∃ a rest, ReactionDue s a rest ∧ nextEvent s = .reaction a rest) := by
  by_cases hl : s.line = s.lineSeen
  · right
    by_cases hn : NoReaction s
    · rw [nextEvent_of_noReaction s hl hn]
      rcases timedEvent_cases s with ⟨h1, h2, h3⟩ | ⟨e, h1, h2⟩ | ⟨i, rest, h1, h2, h3⟩
      · exact .inl ⟨hl, hn, h1, h2, h3⟩
      · exact .inr (.inl ⟨e, hl, h1, h2⟩)
      · exact .inr (.inr (.inl ⟨i, rest, hl, h1, h2, h3⟩))
    · right; right; right
      unfold NoReaction at hn
      push Not at hn
      obtain ⟨r, rest, h1, h2⟩ := hn
      have hd : ReactionDue s r.act rest := ⟨hl, r.answers, h1, h2⟩
      exact ⟨r.act, rest, hd, (nextEvent_of_reactionDue s _ _ hd).1⟩
  · left; exact ⟨hl, by simp [nextEvent, hl]⟩

/-- Everything a step can do: the one inversion of `step`. -/
theorem step_cases (s : State) (o : Host.Outcome State Fault Refusal) (h : step s = o) :
    (EdgeDue s true ∧ o = rise { s with lineSeen := true }) ∨
    (EdgeDue s false ∧ o = fall { s with lineSeen := false }) ∨
    (s.line = s.lineSeen ∧ s.timer = none ∧ s.inputs = [] ∧ o = .next s) ∨
    (∃ e k, s.line = s.lineSeen ∧ s.timer = some e ∧ nextEvent s = .timer e ∧
      o = runCallback e.cb { s with timer := none, now := max s.now e.deadline, ties := k }) ∨
    (∃ i rest k, s.line = s.lineSeen ∧ s.inputs = i :: rest ∧ nextEvent s = .input i rest ∧
      (∀ e, s.timer = some e → max s.now i.time ≤ e.deadline) ∧
      o = applyInput i.what { s with now := max s.now i.time, inputs := rest, ties := k }) ∨
    (∃ a rest, ReactionDue s a rest ∧ nextEvent s = .reaction a rest ∧
      o = applyAct a { s with reactions := rest }) := by
  subst h
  rcases nextEvent_cases s with ⟨h1, h2⟩ | ⟨h1, h0, h2, h3, h4⟩ | ⟨e, h1, h2, h3⟩ |
    ⟨i, rest, h1, h2, h3, h4⟩ | ⟨a, rest, h1, h2⟩
  · have key : ∀ l : Bool, s.line = l → EdgeDue s l ∧ step s = runEvent (.edge l) s := fun l hl => by
      have hd : EdgeDue s l :=
        ⟨hl, by rw [hl] at h1; cases l <;> cases h : s.lineSeen <;> simp_all⟩
      exact ⟨hd, step_of_nextEvent s _ (nextEvent_of_edgeDue s l hd)⟩
    cases hl : s.line with
    | true => exact .inl (key true hl)
    | false => exact .inr (.inl (key false hl))
  · right; right; left
    refine ⟨h1, h2, h3, ?_⟩
    rw [step_of_nextEvent s .quiet
      ⟨h4, by simp [tieSettled, (dueReaction_eq_none s).2 h0, h2]⟩]; rfl
  · right; right; right; left
    refine ⟨e, (countTie s).ties, h1, h2, h3, ?_⟩
    rw [step, advance, h3]; rfl
  · right; right; right; right; left
    refine ⟨i, rest, (countTie s).ties, h1, h2, h3, h4, ?_⟩
    rw [step, advance, h3]; rfl
  · right; right; right; right; right
    exact ⟨a, rest, h1, h2, step_of_nextEvent s _ (nextEvent_of_reactionDue s a rest h1)⟩

/-- What the client does from its main program (R71). -/
theorem nextClientAct_of_input (s : State) (n : Nat) (a : ClientAct) (rest : List TimedInput)
    (h : nextEvent s = .input ⟨n, .client a⟩ rest) : nextClientAct s = some a := by
  simp [nextClientAct, h]

/-- What the client does from a handler (R71). -/
theorem nextClientAct_of_reaction (s : State) (a : ClientAct) (rest : List Reaction)
    (h : nextEvent s = .reaction a rest) : nextClientAct s = some a := by
  simp [nextClientAct, h]

/-- The inversion of a step with what the client does as one case, whether its main program or a handler
does it: the reactions of the block, a change of the environment's level, and the client's act, which
runs on the state with the time and the lists of the environment moved on. -/
theorem step_agents (s : State) (o : Host.Outcome State Fault Refusal) (h : step s = o) :
    (EdgeDue s true ∧ o = rise { s with lineSeen := true }) ∨
    (EdgeDue s false ∧ o = fall { s with lineSeen := false }) ∨
    (s.line = s.lineSeen ∧ s.timer = none ∧ s.inputs = [] ∧ o = .next s) ∨
    (∃ e k, s.line = s.lineSeen ∧ s.timer = some e ∧ nextEvent s = .timer e ∧
      o = runCallback e.cb { s with timer := none, now := max s.now e.deadline, ties := k }) ∨
    (∃ l n rest k, s.now ≤ n ∧ (∀ e, s.timer = some e → n ≤ e.deadline) ∧
      o = .next { s with now := n, inputs := rest, ties := k, ext := l }) ∨
    (∃ a n rest later k, nextClientAct s = some a ∧ s.now ≤ n ∧
      (n = s.now ∨ ∀ e, s.timer = some e → n ≤ e.deadline) ∧
      o = applyAct a { s with now := n, inputs := rest, reactions := later, ties := k }) := by
  rcases step_cases s o h with h | h | h | h | ⟨⟨n, w⟩, rest, k, -, -, h3, h4, h5⟩ | ⟨a, rest, -, h2, h3⟩
  · exact .inl h
  · exact .inr (.inl h)
  · exact .inr (.inr (.inl h))
  · exact .inr (.inr (.inr (.inl h)))
  · cases w with
    | ext l => exact .inr (.inr (.inr (.inr (.inl ⟨l, _, rest, k, Nat.le_max_left _ _, h4, h5⟩))))
    | client a =>
      exact .inr (.inr (.inr (.inr (.inr ⟨a, _, rest, s.reactions, k,
        nextClientAct_of_input s n a rest h3, Nat.le_max_left _ _, .inr h4, h5⟩))))
  · exact .inr (.inr (.inr (.inr (.inr ⟨a, _, s.inputs, rest, s.ties,
      nextClientAct_of_reaction s a rest h2, Nat.le_refl _, .inl rfl, h3⟩))))

/-- A due Sample reads the line and completes the receive (R154): the reset check is scheduled first. -/
theorem step_of_sample (s : State) (t : Nat) (h : TimerDue s .sample t) :
    step s = recvBitDone s.line false { s with now := t, timer := checkAt s t, op := .idle } := by
  rw [step_of_nextEvent s _ (nextEvent_of_timerDue s .sample t h)]
  simp only [runEvent, timerFire, timerCancel, runCallback, sample, Nat.max_eq_right h.2.2.2.1]
  rw [scheduleResetCheck_of_none _ rfl]
  rfl

/-- A slot in which a bit went out completes the send, in both of its ways (R151, R155). -/
theorem step_of_slotSent (s done : State) (h : SlotSent s done) (h1 : s.fsm ≠ .assertingPresence)
    (h2 : s.fsm ≠ .waitingForReset) : step s = sendBitDone { done with op := .idle } := by
  rcases h with ⟨t, h, rfl⟩ | ⟨h, he, ho, rfl⟩
  · rw [step_of_nextEvent s _ (nextEvent_of_timerDue s .holdEnd t h)]
    simp only [runEvent, timerFire, timerCancel, runCallback, holdEnd, Nat.max_eq_right h.2.2.2.1]
    rw [scheduleResetCheck_of_none _ rfl]
    rfl
  · rw [step_of_nextEvent s _ (nextEvent_of_edgeDue s false h)]
    simp [runEvent, fall, edgeIgnored, he, h1, h2, startSlot, ho, scheduleResetCheck_eq]

end Sys2Proof.Machine
end

