-- ==== Sys2Proof/Tests/Slice0.lean ====
section
/-! SUPPORT. Tests. The expected values are those of the spec: its rules, and the worked vectors of
95_test_vectors.md (default parameters, the ROM 28 AD DA CE 0F 00 11 5B), named in each comment. A theorem
`hyp_<statement>` shows states and operands that meet the hypotheses of that statement, one for each
clause, at the ends of its ranges. -/

namespace Sys2Proof.Tests

open Sys2Proof Sys2Proof.Machine

/-! ### Ill-formed terms -/

theorem test_known_byte_is_no_unknown_command :
    romCommandBytes.all (fun v => !(Instr.unknownCommand v).wf) = true := by decide
theorem test_unknown_bytes_are_well_formed :
    ([0x00, 0x0F, 0x3C, 0x69, 0x99, 0xFF].all fun v => (Instr.unknownCommand v).wf) = true := by decide
theorem test_operation_code_is_not_reserved :
    ([0, 3, 8].all fun c => !(Instr.clientReserved c).wf) = true := by decide
theorem test_reserved_codes_are_well_formed :
    ([9, 15].all fun c => (Instr.clientReserved c).wf) = true := by decide

/-! ### One word of each row, from the tables T-ROMCMD and T-CLIENTOP -/

theorem test_decode_searchRom : decode (.command 0b11110000) = .searchRom := by decide
theorem test_decode_condSearch : decode (.command 0b11101100) = .condSearch := by decide
theorem test_decode_readRom : decode (.command 0b00110011) = .readRom := by decide
theorem test_decode_matchRom : decode (.command 0b01010101) = .matchRom := by decide
theorem test_decode_skipRom : decode (.command 0b11001100) = .skipRom := by decide
theorem test_decode_resume : decode (.command 0b10100101) = .resume := by decide
theorem test_decode_unknown : decode (.command 0b10011001) = .unknownCommand 0x99 := by decide
theorem test_decode_near_skip : decode (.command 0b11001101) = .unknownCommand 0xCD := by decide
theorem test_decode_begin :
    decode (.client {
      code := 0b0000, rom := ⟨0x28, 0xAD, 0xDA, 0xCE, 0x0F, 0x00, 0x11⟩, eighth := some 0xFF, pin := 2 }) =
    .beginOp ⟨0x28, 0xAD, 0xDA, 0xCE, 0x0F, 0x00, 0x11⟩ (some 0xFF) 2 := by decide
theorem test_decode_end : decode (.client { code := 0b0001 }) = .endOp := by decide
theorem test_decode_setRecvCb : decode (.client { code := 0b0010, flag := true }) = .setRecvCb true := by
  decide
theorem test_decode_setBitCb : decode (.client { code := 0b0011, flag := true }) = .setBitCb true := by
  decide
theorem test_decode_alarmed : decode (.client { code := 0b0100, flag := true }) = .alarmed true := by
  decide
theorem test_decode_write : decode (.client { code := 0b0101, buf := some 7, len := 3, hasCb := true }) =
    .write (some 7) 3 true := by decide
theorem test_decode_writeBit :
    decode (.client { code := 0b0110, flag := false, again := true, hasCb := false }) =
    .writeBit false true false := by decide
theorem test_decode_stopWrite : decode (.client { code := 0b0111 }) = .stopWrite := by decide
theorem test_decode_crc8 : decode (.client { code := 0b1000, bytes := [1, 2] }) = .crc8 [1, 2] := by
  decide
theorem test_decode_reserved : decode (.client { code := 0b1001 }) = .clientReserved 9 ∧
    decode (.client { code := 0b1111 }) = .clientReserved 15 := by decide
theorem test_table_words : decodeTableWord 8 0xCC = some .skipRom ∧ decodeTableWord 4 7 = some .stopWrite ∧
    decodeTableWord 8 0x99 = some (.unknownCommand 0x99) ∧ decodeTableWord 8 0x100 = none ∧
    decodeTableWord 16 0xCC = none := by decide

/-! ### The checksum (vectors V-CRC and V-CRC-TABLE) -/

theorem test_crc_bytes : crc8 [0x01] = 0x5E ∧ crc8 [0x80] = 0x8C ∧ crc8 [0xFF] = 0x35 ∧
    crc8 [0x2B] = 0x03 ∧ crc8 [0xD4] = 0x36 := by decide
theorem test_crc_sequences :
    crc8 [0x28, 0xAD, 0xDA, 0xCE, 0x0F, 0x00, 0x11] = 0x5B ∧
    crc8 [0x02, 0x1C, 0xB8, 0x01, 0x00, 0x00, 0x00] = 0xA2 ∧
    crc8 [0x31, 0x32, 0x33, 0x34, 0x35, 0x36, 0x37, 0x38, 0x39] = 0xA1 := by decide +kernel

/-! ### Small states -/

/-- The identity of the vectors, and the operand of `begin` that makes it. -/
def romA : Bytes8 := ⟨0x28, 0xAD, 0xDA, 0xCE, 0x0F, 0x00, 0x11, 0x5B⟩
def rom7 : Bytes7 := ⟨0x28, 0xAD, 0xDA, 0xCE, 0x0F, 0x00, 0x11⟩

/-- An enabled block at time 2000 in this state, with this operation, the line high. -/
def running (f : Fsm) (o : BitOp) : State :=
  { State.reset with
    enabled := true, fsm := f, op := o, curBit := o.sentBit, rom := romA, recvCbEn := true
    bitCbEn := true, now := 2000 }

/-- The timer is the next event. -/
def dueAt (cb : Callback) (t : Nat) (s : State) : State :=
  { s with timer := some ⟨t, cb⟩, inputs := [], reactions := [], lineSeen := s.line }

/-- An edge to this level is the next event. -/
def edgeTo (l : Bool) (s : State) : State := { s with ext := l, driveLow := false, lineSeen := !l }

/-- This input is the next event, at time 2100. -/
def given (w : Input) (s : State) : State :=
  { s with timer := none, inputs := [⟨2100, w⟩], reactions := [], lineSeen := s.line }

/-- The operation of this request, from the main program. -/
def asks (r : ClientReq) : Input := .client (.operation r)

/-- The line low at the slot in flight, since 1990. -/
def low (s : State) : State := { s with ext := false, lowStart := some 1990 }

/-- A field of the next state. -/
def after {α : Type} (o : Host.Outcome State Fault Refusal) (f : State → α) : Option α :=
  match o with
  | .next t => some (f t)
  | .fault _ => none
  | .refused _ => none

theorem dueAt_due (cb : Callback) (t : Nat) (s : State) (h : s.now ≤ t) : TimerDue (dueAt cb t s) cb t :=
  ⟨rfl, fun _ _ h => (by cases h), rfl, h, fun _ _ h => by cases h⟩

theorem edgeTo_due (l : Bool) (s : State) : EdgeDue (edgeTo l s) l := by
  cases l <;> simp [EdgeDue, edgeTo, State.line]

theorem given_due (w : Input) (s : State) : InputDue (given w s) ⟨2100, w⟩ [] :=
  ⟨rfl, fun _ _ h => (by cases h), rfl, fun _ h => by cases h⟩

/-! ### One step of each instruction -/

/-- V-DISPATCH, row F0: ROM bit 0 is 0. -/
theorem test_searchRom : after (exec .searchRom (running .receivingCommand .idle))
    (fun t => (t.fsm, t.op, t.curBit, t.searchIdx, t.searchPhase)) =
    some (.searchingRom, .send0Armed, some false, 0, .sendTrue) := by decide
/-- V-CS: silent with `alarmed` 0. -/
theorem test_condSearch_not_alarmed : after (exec .condSearch (running .receivingCommand .idle))
    (fun t => (t.fsm, t.op, t.out)) = some (.waitingForReset, .idle, []) := by decide
theorem test_condSearch_alarmed :
    after (exec .condSearch { running .receivingCommand .idle with alarmed := true })
    (fun t => (t.fsm, t.op, t.alarmed)) = some (.searchingRom, .send0Armed, true) := by decide
/-- V-DISPATCH, row 33. -/
theorem test_readRom : after (exec .readRom { running .receivingCommand .idle with txCur := 64 })
    (fun t => (t.fsm, t.op, t.txSrc, t.txCur)) =
    some (.sendingBytes, .send0Armed, some .rom, 0) := by decide
/-- V-DISPATCH, row 55. -/
theorem test_matchRom : after (exec .matchRom (running .receivingCommand .idle))
    (fun t => (t.fsm, t.op, t.rxLen, t.rxByte, t.rxBit)) =
    some (.matchingRom, .recvArmed, 8, 0, 0) := by decide
/-- V-DISPATCH, row CC. -/
theorem test_skipRom : after (exec .skipRom (running .receivingCommand .idle))
    (fun t => (t.fsm, t.op, t.rxLen, t.out)) =
    some (.receivingApplicationByte, .recvArmed, 1, []) := by decide
/-- V-DISPATCH, the two rows A5. -/
theorem test_resume_not_allowed : after (exec .resume (running .receivingCommand .idle))
    (fun t => (t.fsm, t.op, t.out)) = some (.waitingForReset, .idle, []) := by decide
theorem test_resume_allowed :
    after (exec .resume { running .receivingCommand .idle with resumeAllowed := true })
    (fun t => (t.fsm, t.op, t.resumeAllowed)) =
    some (.receivingApplicationByte, .recvArmed, true) := by decide
/-- V-UNK: `Diag(2)`, then `Event(Error, 0)`. -/
theorem test_unknownCommand : after (exec (.unknownCommand 0x99) (running .receivingCommand .idle))
    (fun t => (t.fsm, t.out)) =
    some (.waitingForReset, [⟨2000, .diag 2⟩, ⟨2000, .event .error 0⟩]) := by decide
/-- V-NOCB: with no callback registered only the diagnostic. -/
theorem test_unknownCommand_no_callback :
    after (exec (.unknownCommand 0x99) { running .receivingCommand .idle with recvCbEn := false })
    (fun t => t.out) = some [⟨2000, .diag 2⟩] := by decide
/-- V-BEGIN8: a wrong eighth byte is replaced; the flags are cleared and the enables kept. -/
theorem test_begin : after (exec (.beginOp rom7 (some 0xFF) 2)
      { running .matchingRom .recvArmed with alarmed := true, resumeAllowed := true, rom := ⟨1, 2, 3, 4, 5, 6, 7, 8⟩ })
    (fun t => (t.rom, t.alarmed, t.resumeAllowed, t.fsm, t.op, t.recvCbEn)) =
    some (romA, false, false, .waitingForReset, .idle, true) := by decide +kernel
/-- V-END: in the presence pulse. -/
theorem test_end : after (exec .endOp
      { running .assertingPresence .idle with driveLow := true, timer := some ⟨2300, .endPresence⟩ })
    (fun t => (t.enabled, t.fsm, t.driveLow, t.timer, t.out)) =
    some (false, .disabled, false, none, []) := by decide
theorem test_setRecvCb : after (exec (.setRecvCb false) (running .waitingForReset .idle))
    (fun t => (t.recvCbEn, t.bitCbEn)) = some (false, true) := by decide
theorem test_setBitCb : after (exec (.setBitCb false) (running .waitingForReset .idle))
    (fun t => (t.recvCbEn, t.bitCbEn)) = some (true, false) := by decide
/-- V-DISABLED: `alarmed` is set while disabled. -/
theorem test_alarmed : after (exec (.alarmed true) State.reset) (fun t => (t.alarmed, t.enabled)) =
    some (true, false) := by decide
/-- V-WW: the armed send is failed and the second one takes its place. -/
theorem test_write_replaces : after (exec (.write (some 0) 1 true)
      { running .sendingBytes .send1Armed with
        tx := [(0, 0x02)], txSrc := some .client, ps := some ⟨.bytes 8 1 0 0, true⟩ })
    (fun t => (t.out, t.ps, t.op, t.curBit)) =
    some ([⟨2000, .sendDone true⟩], some ⟨.bytes 0 1 0 0, true⟩, .send0Armed, some false) := by decide
/-- V-STALE-A: during a pending sample nothing is armed. -/
theorem test_write_in_flight : after (exec (.write (some 0) 1 true)
      (dueAt .sample 2025 (running .receivingApplicationByte .recvSampling)))
    (fun t => (t.fsm, t.stale, t.op)) = some (.sendingBytes, true, .recvSampling) := by decide
/-- V-REFUSE: outside the application byte loop. -/
theorem test_writeBit_refused : after (exec (.writeBit true false true) (running .assertingPresence .idle))
    (fun t => (t.fsm, t.ps, t.out)) =
    some (.assertingPresence, none, [⟨2000, .sendDone true⟩]) := by decide
/-- V-WB: a bit takes the next slot. -/
theorem test_writeBit : after (exec (.writeBit false true true)
      { running .receivingApplicationByte .recvArmed with rxBit := 3, rxAcc := 5 })
    (fun t => (t.fsm, t.txSrc, t.op, t.rxBit, t.rxAcc)) =
    some (.sendingBytes, some .client, .send0Armed, 0, 0) := by decide
/-- V-STALE-B: a held 0 is not released, its result will be dropped. -/
theorem test_stopWrite : after (exec .stopWrite
      { running .sendingBytes .send0Holding with
        driveLow := true, txSrc := some .client, ps := some ⟨.bit false true, true⟩ })
    (fun t => (t.fsm, t.ps, t.stale, t.driveLow, t.out)) =
    some (.receivingApplicationByte, none, true, true, [⟨2000, .sendDone true⟩]) := by decide
/-- V-DISABLED. -/
theorem test_stopWrite_disabled : after (exec .stopWrite State.reset) (fun t => t.toBlock) =
    some State.reset.toBlock := by decide
/-- V-DISABLED: the result of CRC8. -/
theorem test_crc8 : after (exec (.crc8 [0x01]) State.reset) (fun t => (t.result, t.enabled)) =
    some (some 0x5E, false) := by decide
/-- R102: a reserved code changes nothing. -/
theorem test_clientReserved : after (exec (.clientReserved 9) (running .waitingForReset .idle)) (fun t => t) =
    some (running .waitingForReset .idle) := by decide

/-! ### The table words as the first instruction after reset -/

theorem test_fetch_skipRom : after (step (State.reset.withFetchWord 8 0xCC)) (fun t => (t.fsm, t.op)) =
    some (.receivingApplicationByte, .recvArmed) := by decide
theorem test_fetch_unknown : after (step (State.reset.withFetchWord 8 0x99)) (fun t => (t.fsm, t.out)) =
    some (.waitingForReset, [⟨25, .diag 2⟩]) := by decide
theorem test_fetch_begin : after (step (State.reset.withFetchWord 4 0)) (fun t => (t.enabled, t.fsm)) =
    some (true, .waitingForReset) := by decide
/-- R112, R113: an empty low is no change, lows that meet are one, and RESET has its defaults. -/
theorem test_script_lows :
    (expandScript .standard [.low 0]).inputs = [] ∧
    (expandScript .standard [.low 3, .low 4]).inputs = [⟨0, .ext false⟩, ⟨7, .ext true⟩] ∧
    (expandScript .standard [.reset none none]).cursor = 1000 ∧
    (expandScript .standard [.reset none none]).inputs = [⟨0, .ext false⟩, ⟨500, .ext true⟩] := by
  decide
theorem test_fetch_crc8 : after (step (State.reset.withFetchWord 4 8)) (fun t => t.result) =
    some (some 0) := by decide

/-! ### Reset detection and slots -/

/-- In WaitingForReset, a low that began at 1000 ends after `d`. -/
def pulse (d : Nat) : State :=
  edgeTo true { running .waitingForReset .idle with now := 1000 + d, lowStart := some 1000 }

/-- V-RST: 479, 480, 900, 901. -/
theorem test_pulse_bounds :
    (after (step (pulse 479)) fun t => (t.fsm, t.timer, t.out)) = some (.waitingForReset, none, []) ∧
    (after (step (pulse 480)) fun t => (t.fsm, t.timer, t.out)) =
      some (.assertingPresence, some ⟨1510, .beginPresence⟩, [⟨1480, .event .reset 0⟩]) ∧
    (after (step (pulse 900)) fun t => (t.fsm, t.timer, t.out)) =
      some (.assertingPresence, some ⟨1930, .beginPresence⟩, [⟨1900, .event .reset 0⟩]) ∧
    (after (step (pulse 901)) fun t => (t.fsm, t.timer, t.out)) =
      some (.waitingForReset, none, [⟨1901, .diag 1⟩, ⟨1901, .event .error 0⟩]) := by decide
/-- V-SLOT: the falling edge of a receive, and of a send of 0. -/
theorem test_slot_falls :
    (after (step (edgeTo false (running .receivingCommand .recvArmed)))
      fun t => (t.op, t.timer, t.lowStart)) = some (.recvSampling, some ⟨2025, .sample⟩, some 2000) ∧
    (after (step (edgeTo false (running .searchingRom .send0Armed)))
      fun t => (t.op, t.timer, t.driveLow)) = some (.send0Holding, some ⟨2035, .holdEnd⟩, true) := by decide
/-- V-BITCB: the eighth bit of 0xA5 at 3075, `Bit` before `Event(Byte)`. -/
theorem test_application_byte :
    after (step (dueAt .sample 3075
      { running .receivingApplicationByte .recvSampling with rxAcc := 0x25, rxBit := 7 }))
      (fun t => (t.op, t.rxAcc, t.rxBit, t.out)) =
    some (.recvArmed, 0, 0, [⟨3075, .bit true⟩, ⟨3075, .event .byte 0xA5⟩]) := by decide
/-- V-MIDRST: at 3200 the line is low: the transaction is abandoned and `low_start` stays. -/
theorem test_reset_check :
    after (step (dueAt .resetCheck 3200
      { running .receivingApplicationByte .recvArmed with ext := false, lowStart := some 2770 }))
      (fun t => (t.fsm, t.op, t.lowStart, t.timer)) =
    some (.waitingForReset, .idle, some 2770, none) := by decide

/-! ### States with the invariant, for the statements that assume it -/

/-- The decidable part of what the invariant says in every shape. -/
def commonCheck (s : State) : Bool :=
  decide s.cfg.Legal && Memory.wf s.tx && decide (s.rom.b7 = crcOfSerial
    ⟨s.rom.b0, s.rom.b1, s.rom.b2, s.rom.b3, s.rom.b4, s.rom.b5, s.rom.b6⟩) &&
  (match s.timer with
    | none => true
    | some e => decide (s.now ≤ e.deadline)) &&
  (match s.lowStart with
    | none => true
    | some t => !s.lineSeen && decide (t ≤ s.now))

theorem common_of_check (s : State) (h : commonCheck s = true) : CommonFacts s := by
  simp only [commonCheck, Bool.and_eq_true, decide_eq_true_eq] at h
  obtain ⟨⟨⟨⟨h1, h2⟩, h3⟩, h4⟩, h5⟩ := h
  refine ⟨h1, h2, fun _ => h3, fun e he => ?_, fun t ht => ?_⟩
  · rw [he] at h4; simpa using h4
  · rw [ht] at h5; simpa using h5

/-- A state waiting for a reset, with the timer disarmed, has the invariant. -/
theorem waiting_inv (s : State) (h : commonCheck s = true) (he : s.enabled = true)
    (hf : s.fsm = .waitingForReset)
    (hq : s.op = .idle ∧ s.curBit = none ∧ s.ps = none ∧ s.txSrc = none ∧ s.stale = false)
    (hd : s.driveLow = false) (ht : TimerIdle s) : Inv s :=
  WaitingShape.inv ⟨common_of_check s h, ⟨hq.1, hq.2.1, hq.2.2.1, hq.2.2.2.1, hq.2.2.2.2⟩, he, hf, ht, hd⟩

/-- A disabled state has the invariant. -/
theorem disabled_inv (s : State) (h : commonCheck s = true) (he : s.enabled = false)
    (hf : s.fsm = .disabled)
    (hq : s.op = .idle ∧ s.curBit = none ∧ s.ps = none ∧ s.txSrc = none ∧ s.stale = false)
    (hd : s.driveLow = false ∧ s.timer = none ∧ s.lowStart = none) : Inv s :=
  DisabledShape.inv ⟨common_of_check s h, ⟨hq.1, hq.2.1, hq.2.2.1, hq.2.2.2.1, hq.2.2.2.2⟩, he, hf,
    hd.2.1, hd.2.2, hd.1⟩

/-- A presence pulse in progress has the invariant. -/
theorem pulse_inv (s : State) (d : Nat) (h : commonCheck s = true) (he : s.enabled = true)
    (hf : s.fsm = .assertingPresence ∧ s.apPhase = .pulse)
    (hq : s.op = .idle ∧ s.curBit = none ∧ s.ps = none ∧ s.txSrc = none ∧ s.stale = false)
    (hd : s.driveLow = true ∧ s.timer = some ⟨d, .endPresence⟩ ∧ s.lowStart = none) : Inv s :=
  PresenceShape.inv ⟨common_of_check s h, ⟨hq.1, hq.2.1, hq.2.2.1, hq.2.2.2.1, hq.2.2.2.2⟩, he, hf.1,
    .inr ⟨hf.2, hd.1, d, hd.2.1⟩, hd.2.2⟩

/-- A block with its presence pulse in progress, to end at 2300. -/
def pulsing : State :=
  { dueAt .endPresence 2300 { running .assertingPresence .idle with driveLow := true } with
    apPhase := .pulse }

theorem pulsing_inv : Inv pulsing :=
  pulse_inv _ 2300 (by decide +kernel) rfl ⟨rfl, rfl⟩ (by decide) (by decide)
theorem reset_inv : Inv State.reset := disabled_inv _ (by decide +kernel) rfl rfl (by decide) (by decide)
theorem pulse479_inv : Inv (pulse 479) :=
  waiting_inv _ (by decide +kernel) rfl rfl (by decide) rfl (.inl rfl)
theorem pulse480_inv : Inv (pulse 480) :=
  waiting_inv _ (by decide +kernel) rfl rfl (by decide) rfl (.inl rfl)
theorem pulse900_inv : Inv (pulse 900) :=
  waiting_inv _ (by decide +kernel) rfl rfl (by decide) rfl (.inl rfl)
theorem pulse901_inv : Inv (pulse 901) :=
  waiting_inv _ (by decide +kernel) rfl rfl (by decide) rfl (.inl rfl)
theorem disabled_given_inv (w : Input) : Inv (given w State.reset) :=
  disabled_inv _ (show commonCheck State.reset = true by decide +kernel) rfl rfl ⟨rfl, rfl, rfl, rfl, rfl⟩ ⟨rfl, rfl, rfl⟩

/-! ### The hypotheses of the statements -/

theorem hyp_DecodeEncodeRoundTrip : (Instr.unknownCommand 0x00).WellFormed ∧
    (Instr.clientReserved 9).WellFormed ∧ (Instr.clientReserved 15).WellFormed ∧
    Instr.stopWrite.WellFormed := by decide
theorem hyp_ClientCodesDecode : ({ code := 0b1000 } : ClientReq).code = 0b1000 ∧
    9 ≤ ({ code := 9 } : ClientReq).code.toNat ∧ 9 ≤ ({ code := 15 } : ClientReq).code.toNat := by decide
theorem hyp_CrcResidueLinearityAndTable : ([1, 2] : List Byte).length = ([3, 4] : List Byte).length := rfl
/-- The second row of table V-TMR: a tick of 4 and an overhead of 3, delays 0, 10, 25, 35 and 300. -/
def slowTimer : Params := { Params.standard with timerTick := 4, timerOverhead := 3 }
theorem hyp_ScheduleArmsAtQuantisedDelay : slowTimer.timerTick = 4 ∧ slowTimer.timerOverhead = 3 ∧
    effectiveDelay slowTimer 0 = 7 ∧ effectiveDelay slowTimer 10 = 7 ∧
    effectiveDelay slowTimer 25 = 23 ∧ effectiveDelay slowTimer 300 = 299 := by decide
theorem hyp_DelayHonouredWithinOneTick : slowTimer.Legal ∧ Params.standard.Legal ∧
    slowTimer.timerOverhead + slowTimer.timerTick ≤ 7 := by decide
theorem hyp_TimerFiresAtDeadlineCleared :
    TimerDue (dueAt .resetCheck 2000 (running .receivingCommand .recvArmed)) .resetCheck 2000 :=
  dueAt_due _ _ _ (by decide)
theorem hyp_DueEdgeComesFirst : EdgeDue (edgeTo true (running .waitingForReset .idle)) true ∧
    EdgeDue (edgeTo false (running .waitingForReset .idle)) false :=
  ⟨edgeTo_due _ _, edgeTo_due _ _⟩
/-- A handler that reacts to the notification emitted last. -/
def reacting (a : ClientAct) (s : State) : State :=
  { s with out := [⟨s.now, .event .byte 0⟩], reactions := [⟨0, a⟩], lineSeen := s.line }
theorem reacting_due (a : ClientAct) (s : State) : ReactionDue (reacting a s) a [] :=
  ⟨rfl, 0, rfl, Nat.one_pos⟩
theorem hyp_StepRunsClientOperation :
    InputDue (given (asks { code := 7 }) State.reset) ⟨2100, asks { code := 7 }⟩ [] ∧
    ReactionDue (reacting (.operation { code := 7 }) State.reset) (.operation { code := 7 }) [] ∧
    decode (.client { code := 7 }) = .stopWrite := ⟨given_due _ _, reacting_due _ _, by decide⟩
/-- The eighth Sample of 0xCC. -/
def eighthOfSkip : State :=
  dueAt .sample 2515 { running .receivingCommand .recvSampling with rxAcc := 0x4C, rxBit := 7 }
theorem hyp_StepRunsCommandByte : TimerDue eighthOfSkip .sample 2515 ∧
    eighthOfSkip.fsm = .receivingCommand ∧ eighthOfSkip.stale = false ∧ eighthOfSkip.rxBit = 7 ∧
    decode (.command (eighthOfSkip.rxAcc ||| (if eighthOfSkip.line then 0x80 else 0x00))) = .skipRom :=
  ⟨dueAt_due _ _ _ (by decide), by decide⟩
/-- A timer event and an input, both at 2100. -/
def tieWith (w : Input) : State :=
  { given w (running .assertingPresence .idle) with timer := some ⟨2100, .beginPresence⟩ }
/-- The tie without a reaction, with one due, and with one that waits for its notification. -/
theorem hyp_TieTakesEitherOrder :
    let s := tieWith (asks { code := 1 })
    let r : ClientAct := .operation { code := 7 }
    (s.line = s.lineSeen ∧ s.timer = some ⟨2100, .beginPresence⟩ ∧
      s.inputs = [⟨2100, asks { code := 1 }⟩] ∧ s.now ≤ 2100 ∧ NoReaction s) ∧
    ReactionDue (reacting r s) r [] ∧ NoReaction { reacting r s with out := [] } :=
  ⟨⟨by decide, rfl, rfl, by decide, fun _ _ h => by cases h⟩, reacting_due _ _,
   fun _ _ h => by cases h; exact Nat.le_refl 0⟩
theorem hyp_NothingHappensWithoutAnEvent :
    State.reset.line = State.reset.lineSeen ∧ NoReaction State.reset ∧ State.reset.timer = none ∧
    State.reset.inputs = [] := ⟨rfl, fun _ _ h => (by cases h), rfl, rfl⟩
theorem hyp_IgnoredEdgeChangesNothing : EdgeDue (edgeTo false State.reset) false ∧
    (edgeTo false State.reset).enabled = false ∧
    EdgeDue (edgeTo true (running .assertingPresence .idle)) true ∧
    (edgeTo true (running .assertingPresence .idle)).fsm = .assertingPresence :=
  ⟨edgeTo_due _ _, rfl, edgeTo_due _ _, rfl⟩
theorem hyp_FallingEdge (f : Fsm) (o : BitOp) : EdgeDue (edgeTo false (running f o)) false ∧
    (edgeTo false (running f o)).enabled = true ∧ (edgeTo false (running f o)).fsm = f ∧
    (edgeTo false (running f o)).op = o := ⟨edgeTo_due _ _, rfl, rfl, rfl⟩
/-- An operation that sends in a slot that the next event ends: a held 0, or a 1. -/
def sentZero (s : State) : State := dueAt .holdEnd 2035 { s with op := .send0Holding, driveLow := true }
def sentOne (s : State) : State := edgeTo false { s with op := .send1Armed, enabled := true }
theorem sentZero_sent (s : State) (h : s.now ≤ 2035) : ∃ done, SlotSent (sentZero s) done :=
  ⟨_, .inl ⟨2035, dueAt_due _ _ _ h, rfl⟩⟩
theorem sentOne_sent (s : State) : ∃ done, SlotSent (sentOne s) done :=
  ⟨_, .inr ⟨edgeTo_due _ _, rfl, rfl, rfl⟩⟩
/-- Read ROM with `n` bits sent. -/
def reading (n : BitVec 7) : State :=
  { running .sendingBytes .send1Armed with txSrc := some .rom, txCur := n }
theorem reading_now (n : BitVec 7) : (reading n).now ≤ 2035 := Nat.le_add_right 2000 35
theorem hyp_SendOneOfReadRom (n : BitVec 7) :
    (∃ done, SlotSent (sentZero (reading n)) done) ∧ (∃ done, SlotSent (sentOne (reading n)) done) ∧
    (reading n).stale = false ∧ (reading n).fsm = .sendingBytes ∧ (reading n).txSrc = some .rom ∧
    (reading n).txCur = n :=
  ⟨sentZero_sent _ (reading_now n), sentOne_sent _, rfl, rfl, rfl, rfl⟩
theorem hyp_RisingEdgeCancelsResetCheck :
    (∀ f, EdgeDue (edgeTo true (running f .recvArmed)) true) ∧
    (∃ d, ({ edgeTo true (running .receivingCommand .recvArmed) with
      timer := some ⟨2430, .resetCheck⟩ } : State).timer = some ⟨d, .resetCheck⟩) ∧
    ∀ d, (edgeTo true (running .receivingCommand .recvArmed)).timer ≠ some ⟨d, .resetCheck⟩ :=
  ⟨fun _ => edgeTo_due _ _, ⟨_, rfl⟩, fun _ h => by cases h⟩
/-- V-LOWBEGIN: a low whose fall was not seen. -/
def unseenPulse : State := edgeTo true (running .waitingForReset .idle)
theorem hyp_PulseClassifiedAtItsEnd :
    (Inv (pulse 479) ∧ EdgeDue (pulse 479) true ∧ (pulse 479).lowStart = some 1000) ∧
    (Inv (pulse 480) ∧ EdgeDue (pulse 480) true ∧ (pulse 480).now - 1000 = 480) ∧
    (Inv (pulse 900) ∧ EdgeDue (pulse 900) true ∧ (pulse 900).now - 1000 = 900) ∧
    (Inv (pulse 901) ∧ EdgeDue (pulse 901) true ∧ (pulse 901).fsm = .waitingForReset) ∧
    Inv unseenPulse ∧ EdgeDue unseenPulse true ∧ unseenPulse.lowStart = none :=
  ⟨⟨pulse479_inv, edgeTo_due _ _, rfl⟩, ⟨pulse480_inv, edgeTo_due _ _, rfl⟩,
   ⟨pulse900_inv, edgeTo_due _ _, rfl⟩, ⟨pulse901_inv, edgeTo_due _ _, rfl⟩,
   waiting_inv _ (by decide +kernel) rfl rfl (by decide) rfl (.inl rfl), edgeTo_due _ _, rfl⟩
theorem hyp_PresencePulse :
    TimerDue (dueAt .beginPresence 2030 (running .assertingPresence .idle)) .beginPresence 2030 ∧
    TimerDue pulsing .endPresence 2300 :=
  ⟨dueAt_due _ _ _ (by decide), ⟨rfl, fun _ _ h => (by cases h), rfl, by decide, fun _ _ h => by cases h⟩⟩
theorem hyp_ResetCheckAbandonsTransaction :
    let s := fun f l => dueAt .resetCheck 2430 { running f .recvArmed with ext := l }
    (∀ f l, TimerDue (s f l) .resetCheck 2430) ∧
    ((s .receivingCommand false).line = false ∧ (s .receivingCommand false).fsm ≠ .waitingForReset) ∧
    (s .receivingCommand true).line = true ∧ (s .waitingForReset false).fsm = .waitingForReset :=
  ⟨fun _ _ => dueAt_due _ _ _ (Nat.le_add_right 2000 430), by decide⟩
/-- A sample at 2025 of bit `n` in this state, the line at level `l`. -/
def sampling (f : Fsm) (n : BitVec 3) (l : Bool) : State :=
  dueAt .sample 2025 { running f .recvSampling with rxBit := n, ext := l }
theorem sampling_due (f : Fsm) (n : BitVec 3) (l : Bool) : TimerDue (sampling f n l) .sample 2025 :=
  dueAt_due _ _ _ (Nat.le_add_right 2000 25)
theorem hyp_SampleOfApplicationBit (f : Fsm) (l : Bool) :
    TimerDue (sampling f 0 l) .sample 2025 ∧ TimerDue (sampling f 6 l) .sample 2025 ∧
    (sampling f 6 l).rxBit.toNat < 7 ∧ (sampling f 6 l).stale = false ∧ (sampling f 6 l).fsm = f :=
  ⟨sampling_due _ _ _, sampling_due _ _ _, Nat.lt_succ_self 6, rfl, rfl⟩
/-- A WRITE from the handler of the `Event(Byte)` that the eighth Sample emits after `Bit`. -/
def handsOver : State :=
  { sampling .receivingApplicationByte 7 true with
    reactions := [⟨1, .operation { code := 5, buf := some 4, len := 2, hasCb := true }⟩] }
theorem handsOver_due : TimerDue handsOver .sample 2025 :=
  ⟨rfl, fun _ _ h => (by cases h; exact Nat.zero_le 1), rfl, by decide, fun _ _ h => by cases h⟩
theorem hyp_SampleCompletesApplicationByte (l : Bool) :
    (TimerDue (sampling .receivingApplicationByte 7 l) .sample 2025 ∧
      (sampling .receivingApplicationByte 7 l).stale = false ∧
      (sampling .receivingApplicationByte 7 l).rxBit = 7) ∧
    TimerDue handsOver .sample 2025 ∧ handsOver.enabled = true ∧ handsOver.recvCbEn = true ∧
    handsOver.ps = none ∧ handsOver.reactions =
      [⟨handsOver.out.length + (bitNotice handsOver handsOver.line).length,
        .operation { code := 5, buf := some 4, len := 2, hasCb := true }⟩] :=
  ⟨⟨sampling_due _ _ _, rfl, rfl⟩, handsOver_due, rfl, rfl, rfl, rfl⟩
/-- R232: the Sample goes before the WRITE that its handler issues at the same time. -/
theorem test_handler_follows_its_step :
    after (step handsOver) (fun t => (t.op, t.fsm, t.reactions.length, t.out.length)) =
      some (.recvArmed, .receivingApplicationByte, 1, 2) := by decide
/-- A stale operation in flight in the application byte loop. -/
def staleOp (o : BitOp) : State := { running .receivingApplicationByte o with stale := true }
/-- The same after a WRITE of two bytes at address 4 arrived in flight. -/
def staleSend (o : BitOp) : State :=
  { running .sendingBytes o with
    stale := true, txSrc := some .client, ps := some ⟨.bytes 4 2 0 0, true⟩ }
theorem hyp_StaleCompletionIsDropped :
    TimerDue (dueAt .sample 2025 (staleOp .recvSampling)) .sample 2025 ∧
    TimerDue (dueAt .holdEnd 2035 (staleOp .send0Holding)) .holdEnd 2035 ∧
    (dueAt .holdEnd 2035 (staleOp .send0Holding)).stale = true ∧
    (dueAt .holdEnd 2035 (staleOp .send0Holding)).fsm = .receivingApplicationByte ∧
    TimerDue (dueAt .sample 2025 (staleSend .recvSampling)) .sample 2025 ∧
    TimerDue (dueAt .holdEnd 2035 (staleSend .send0Holding)) .holdEnd 2035 ∧
    (staleSend .recvSampling).ps = some ⟨.bytes 4 2 0 0, true⟩ ∧
    (⟨.bytes 4 2 0 0, true⟩ : PendingSend).InRange :=
  ⟨dueAt_due _ _ _ (by decide), dueAt_due _ _ _ (by decide), rfl, rfl,
   dueAt_due _ _ _ (by decide), dueAt_due _ _ _ (by decide), rfl, fun _ _ _ _ h => by cases h; decide⟩
theorem hyp_SearchSendsTrueThenComplement (p : SearchPhase) :
    TimerDue (dueAt .holdEnd 2035 { running .searchingRom .send0Holding with searchPhase := p })
      .holdEnd 2035 ∧
    EdgeDue (edgeTo false { running .searchingRom .send1Armed with searchPhase := p }) false ∧
    (edgeTo false { running .searchingRom .send1Armed with searchPhase := p }).op = .send1Armed ∧
    (edgeTo false { running .searchingRom .send1Armed with searchPhase := p }).searchPhase = p :=
  ⟨dueAt_due _ _ _ (Nat.le_add_right 2000 35), edgeTo_due _ _, rfl, rfl⟩
/-- The direction bit of round `n`, the line at level `l`. -/
def direction (n : BitVec 6) (l : Bool) : State :=
  { sampling .searchingRom 0 l with searchIdx := n, searchPhase := .recvDirection }
/-- ROM bit 0 of 0x28 is 0, bit 62 (bit 6 of 0x5B) is 1, bit 63 is 0. -/
theorem hyp_SearchDirectionReceived :
    (∀ n l, TimerDue (direction n l) .sample 2025 ∧ (direction n l).ps = none) ∧
    (direction 0 true).line ≠ romBit (direction 0 true).searchIdx (direction 0 true) ∧
    (direction 63 false).line = romBit (direction 63 false).searchIdx (direction 63 false) ∧
    (direction 0 false).line = romBit (direction 0 false).searchIdx (direction 0 false) ∧
    (direction 62 true).line = romBit (direction 62 true).searchIdx (direction 62 true) :=
  ⟨fun n l => ⟨sampling_due .searchingRom 0 l, rfl⟩, by decide⟩
/-- The eighth bit of byte `n` of Match ROM, the line at 0; seven bytes received agree with the ROM. -/
def matching (n : BitVec 4) (acc : Byte) : State :=
  { sampling .matchingRom 7 false with rxByte := n, rxLen := 8, rxAcc := acc, rxBuf := { romA with b7 := 0 } }
theorem hyp_MatchByteStored (n : BitVec 4) (acc : Byte) : TimerDue (matching n acc) .sample 2025 ∧
    (matching n acc).fsm = .matchingRom ∧ (matching n acc).rxBit = 7 ∧ (matching n acc).rxByte = n :=
  ⟨sampling_due .matchingRom 7 false, rfl, rfl, rfl⟩
theorem hyp_MatchCompareDecides :
    TimerDue (matching 7 0x5B) .sample 2025 ∧ (matching 7 0x5B).ps = none ∧
    ({ (matching 7 0x5B).rxBuf with b7 := 0x5B } : Bytes8) = (matching 7 0x5B).rom ∧
    ({ (matching 7 0x5A).rxBuf with b7 := 0x5A } : Bytes8) ≠ (matching 7 0x5A).rom :=
  ⟨sampling_due .matchingRom 7 false, rfl, rfl, by decide⟩
/-- A client send with this payload in its slot. -/
def sending (p : Payload) : State :=
  { running .sendingBytes .send1Armed with txSrc := some .client, ps := some ⟨p, true⟩ }
theorem sending_now (p : Payload) : (sending p).now ≤ 2035 := Nat.le_add_right 2000 35
/-- Two bytes at address 4, at any place, and a bit, repeated or not. -/
theorem hyp_ClientByteSendAdvances (p : Payload) :
    (∃ done, SlotSent (sentZero (sending p)) done) ∧ (∃ done, SlotSent (sentOne (sending p)) done) ∧
    (sending p).fsm = .sendingBytes ∧ (sending p).txSrc = some .client ∧ (sending p).stale = false ∧
    (sending p).ps = some ⟨p, true⟩ ∧ 0 < 2 ∧ 1 < 2 :=
  ⟨sentZero_sent _ (sending_now p), sentOne_sent _, rfl, rfl, rfl, rfl, by decide, by decide⟩
theorem hyp_CondSearchResult_ResumeResult :
    ({ State.reset with alarmed := true, resumeAllowed := true } : State).alarmed = true ∧
    ({ State.reset with alarmed := true, resumeAllowed := true } : State).resumeAllowed = true ∧
    State.reset.alarmed = false ∧ State.reset.resumeAllowed = false := by decide
theorem hyp_EndResult : (running .matchingRom .recvArmed).enabled = true ∧ State.reset.enabled = false := by
  decide
/-- A client send armed in the application byte loop. -/
def clientSending (o : BitOp) : State :=
  { running .sendingBytes o with txSrc := some .client, ps := some ⟨.bit false true, true⟩ }
theorem hyp_WriteResult_WriteBitResult :
    (running .receivingApplicationByte .recvArmed).enabled = true ∧
    InLoop (running .receivingApplicationByte .recvArmed) ∧ InLoop (clientSending .send0Holding) ∧ 0 < 1 :=
  ⟨rfl, .inl rfl, .inr ⟨rfl, rfl⟩, by decide⟩
theorem hyp_StopWriteResult (o : BitOp) : (clientSending o).enabled = true ∧
    (clientSending o).fsm = .sendingBytes ∧ (clientSending o).txSrc = some .client ∧
    (clientSending o).op = o := ⟨rfl, rfl, rfl, rfl⟩
theorem hyp_StopWriteWithoutSendDoesNothing : State.reset.enabled = false ∧
    ¬ InLoop (running .receivingCommand .recvArmed) ∧
    (running .receivingApplicationByte .recvArmed).fsm = .receivingApplicationByte ∧
    (running .receivingApplicationByte .recvArmed).ps = none :=
  ⟨rfl, fun h => (by rcases h with h | ⟨h, _⟩ <;> cases h), rfl, rfl⟩
theorem hyp_SendOutsideLoopIsRefused : (running .assertingPresence .idle).enabled = true ∧
    ¬ InLoop (running .assertingPresence .idle) ∧ State.reset.enabled = false :=
  ⟨rfl, fun h => (by rcases h with h | ⟨h, _⟩ <;> cases h), rfl⟩
theorem hyp_RomCommandFrame : (∃ t, exec .condSearch (running .receivingCommand .idle) = .next t) ∧
    (∃ t, exec .readRom (running .receivingCommand .idle) = .next t) ∧
    ∃ t, exec (.unknownCommand 0x99) (running .receivingCommand .idle) = .next t :=
  ⟨⟨_, rfl⟩, ⟨_, rfl⟩, ⟨_, rfl⟩⟩
theorem hyp_ClientOperationFrame :
    (∃ t, exec (decode (.client { code := 0 })) State.reset = .next t) ∧
    (∃ t, exec (decode (.client { code := 4, flag := true })) State.reset = .next t) ∧
    (∃ t, exec (decode (.client { code := 6 })) (running .receivingApplicationByte .recvArmed) = .next t) ∧
    ∃ t, exec (decode (.client { code := 15 })) State.reset = .next t :=
  ⟨⟨_, rfl⟩, ⟨_, rfl⟩, ⟨_, rfl⟩, ⟨_, rfl⟩⟩
theorem hyp_StepKeepsInvariant_InvariantStepAlwaysGoesOn :
    Inv pulsing ∧ (∃ t, step pulsing = .next t) ∧ Inv (pulse 480) ∧ ∃ t, step (pulse 480) = .next t :=
  ⟨pulsing_inv, ⟨_, rfl⟩, pulse480_inv, ⟨_, rfl⟩⟩
/-- From Disabled by `begin`, to Disabled by `end`, and a row of table T-FSM. -/
theorem hyp_FsmMovesAreTheTable :
    (Inv (given (asks { code := 0 }) State.reset) ∧
      after (step (given (asks { code := 0 }) State.reset)) (fun t => t.fsm) =
        some .waitingForReset) ∧
    after (step (given (asks { code := 1 }) (running .waitingForReset .idle)))
      (fun t => t.fsm) = some .disabled ∧
    Inv pulsing ∧ after (step pulsing) (fun t => t.fsm) = some .receivingCommand :=
  ⟨⟨disabled_given_inv _, by decide⟩, by decide, pulsing_inv, by decide⟩
theorem hyp_IdentityWrittenOnlyByBegin :
    after (step (given (asks { code := 0, rom := rom7 }) State.reset)) (fun t => t.rom) =
      some romA ∧ State.reset.rom ≠ romA := by decide +kernel
theorem hyp_FlagWriters :
    after (step (given (asks { code := 4, flag := true }) State.reset)) (fun t => t.alarmed) =
      some true ∧
    after (step (matching 7 0x5B)) (fun t => t.resumeAllowed) = some true ∧
    (matching 7 0x5B).resumeAllowed = false ∧ (matching 7 0x5B).rxBit = 7 := by decide
theorem hyp_BlockNeverWritesTx : Memory.wf (given (.client (.store 3 0xAB)) State.reset).tx = true ∧
    after (step (given (.client (.store 3 0xAB)) State.reset)) (fun t => t.tx) = some [(3, 0xAB)] := by decide
theorem hyp_NotificationsOnlyAppended : ∃ t, step (pulse 480) = .next t := ⟨_, rfl⟩
theorem hyp_DisabledIsSilent : Inv (given (.ext false) State.reset) ∧
    (given (.ext false) State.reset).enabled = false ∧
    ∃ t, step (given (.ext false) State.reset) = .next t :=
  ⟨disabled_given_inv _, rfl, ⟨_, rfl⟩⟩
theorem hyp_LineDrivenLowOnlyWhenHolding : Inv pulsing ∧ pulsing.driveLow = true ∧
    Inv (pulse 480) ∧ (pulse 480).driveLow = false := ⟨pulsing_inv, rfl, pulse480_inv, rfl⟩
/-- Waiting to begin the presence pulse, at 2300. -/
def presenceWait : State := dueAt .beginPresence 2300 (running .assertingPresence .idle)
/-- The rising edge of an accepted reset that also cancels a reset check. -/
def pulseWithCheck : State := { pulse 480 with timer := some ⟨1490, .resetCheck⟩ }
theorem hyp_TimerNeverOverwritten :
    (Inv (pulse 480) ∧ after (step (pulse 480)) (fun t => t.timer.isSome) = some true) ∧
    (Inv presenceWait ∧
      after (step presenceWait) (fun t => t.timer) = some (some ⟨2600, .endPresence⟩)) ∧
    Inv pulseWithCheck ∧ EdgeDue pulseWithCheck true ∧
    after (step pulseWithCheck) (fun t => t.timer) = some (some ⟨1510, .beginPresence⟩) :=
  ⟨⟨pulse480_inv, by decide⟩,
   ⟨PresenceShape.inv ⟨common_of_check _ (by decide +kernel), ⟨rfl, rfl, rfl, rfl, rfl⟩, rfl, rfl,
      .inl ⟨rfl, rfl, _, rfl⟩, rfl⟩, by decide⟩,
   waiting_inv _ (by decide +kernel) rfl rfl (by decide) rfl (.inr ⟨_, _, rfl, rfl⟩), edgeTo_due true _,
   by decide⟩

end Sys2Proof.Tests
end

section
/-! PROOFS, 00_scope.md: what every step does to the time, the parameters and the notifications (O57), and
which step a client operation (O12) and the absence of an event (O15) give. -/

namespace Sys2Proof.Machine

/-! ### Time, parameters and notifications along a step (R13, R15, R67) -/

/-- `t` comes after `s` in one run of one configuration: it is not earlier, has the same parameters, and
has the notifications of `s` followed by new ones of its own time. -/
def Follows (s t : State) : Prop :=
  s.now ≤ t.now ∧ t.cfg = s.cfg ∧
    ∃ new : List Emission, t.out = s.out ++ new ∧ ∀ e ∈ new, e.time = t.now

/-- Nothing emitted, whether time passed or not. -/
theorem Follows.of_silent {s t : State} (hnow : s.now ≤ t.now) (hcfg : t.cfg = s.cfg)
    (hout : t.out = s.out) : Follows s t :=
  ⟨hnow, hcfg, [], by simp [hout], by simp⟩

/-- Only the block was written. -/
theorem Follows.of_toEnv {s t : State} (h : t.toEnv = s.toEnv) : Follows s t :=
  .of_silent (congrArg Env.now h).ge (congrArg Env.cfg h) (congrArg Env.out h)

/-- The block's own reactions take no time and emit at the present time. -/
theorem Kept.follows {s t : State} (h : Kept s t) : Follows s t := by
  obtain ⟨new, hout, hnew⟩ := h.out
  exact ⟨h.now.ge, h.cfg, new, hout, fun e he => (hnew e he).trans h.now.symm⟩

/-- The event moves the time on before the reaction to it runs, and emits nothing itself. -/
theorem Follows.of_later {s u t : State} (h : Follows u t) (hnow : s.now ≤ u.now)
    (hcfg : u.cfg = s.cfg) (hout : u.out = s.out) : Follows s t := by
  obtain ⟨hle, hsame, new, happ, hnew⟩ := h
  exact ⟨hnow.trans hle, hsame.trans hcfg, new, hout ▸ happ, hnew⟩

/-- `end` writes the block alone (R252). -/
theorem endIfEnabled_toEnv (s : State) : (if s.enabled then tearDown s else s).toEnv = s.toEnv := by
  split <;> rfl

/-- Of the client operations only the queueing of a send may emit; all others leave time, parameters and
notifications as they are. -/
theorem follows_clientOperation (r : ClientReq) (s t : State)
    (h : exec (decode (.client r)) s = .next t) : Follows s t := by
  rcases clientOperation_cases r s t h with ⟨rom, eighth, pin, -, rfl⟩ | ⟨-, rfl⟩ | ⟨v, -, rfl⟩ |
    ⟨v, -, rfl⟩ | ⟨v, -, rfl⟩ | ⟨-, new, hq⟩ | ⟨-, rfl⟩ | ⟨-, rfl⟩
  · exact .of_toEnv (endIfEnabled_toEnv s)
  · exact .of_toEnv (endIfEnabled_toEnv s)
  · exact .of_toEnv rfl
  · exact .of_toEnv rfl
  · exact .of_toEnv rfl
  · exact (keptOf_queueSend new s t hq).follows
  · exact .of_silent le_rfl rfl rfl
  · exact .of_toEnv rfl

/-- What the client does, an operation or a store into its own memory. -/
theorem follows_applyAct (a : ClientAct) (s t : State) (h : applyAct a s = .next t) : Follows s t := by
  cases a with
  | operation req => exact follows_clientOperation req s t h
  | store addr v => cases h; exact .of_silent le_rfl rfl rfl

/-- Settles O57, by the cases of a step: an edge and a callback are reactions of the block, the rest is
the environment's level or the client's act, at the time that the event moved to. -/
theorem notificationsOnlyAppended : Obligations.NotificationsOnlyAppended := by
  intro s t h
  change Follows s t
  rcases step_agents s _ h with ⟨-, hr⟩ | ⟨-, hf⟩ | ⟨-, -, -, hq⟩ | ⟨e, k, -, -, -, hc⟩ |
    ⟨l, n, rest, k, hn, -, he⟩ | ⟨a, n, rest, later, k, -, hn, -, ha⟩
  · exact (keptOf_rise _ t hr.symm).follows.of_later le_rfl rfl rfl
  · exact (keptOf_fall _ t hf.symm).follows.of_later le_rfl rfl rfl
  · cases hq; exact .of_silent le_rfl rfl rfl
  · exact (keptOf_runCallback e.cb _ t hc.symm).follows.of_later (le_max_left _ _) rfl rfl
  · cases he; exact .of_silent hn rfl rfl
  · exact (follows_applyAct a _ t ha.symm).of_later hn rfl rfl

/-! ### Which step is taken (R13, R71, R102, R234) -/

/-- Settles O12: the due request is the next event and settles no tie, so the step is the step of that
event, which decodes and executes it. -/
theorem stepRunsClientOperation : Obligations.StepRunsClientOperation := by
  rintro s req i rfl
  exact ⟨fun t rest hdue => step_of_nextEvent s _ (nextEvent_of_inputDue s _ rest hdue),
    fun rest hdue => step_of_nextEvent s _ (nextEvent_of_reactionDue s _ rest hdue)⟩

/-- With no edge and no reaction due, no timer and no input, the quiet event is next, and settles no tie. -/
theorem nextEvent_of_nothingDue (s : State) (hl : s.line = s.lineSeen) (hn : NoReaction s)
    (ht : s.timer = none) (hi : s.inputs = []) : nextEvent s = .quiet ∧ tieSettled s = false := by
  have hr := (dueReaction_eq_none s).2 hn
  exact ⟨by rw [nextEvent_of_noReaction s hl hn]; simp [timedEvent, ht, hi],
    by simp [tieSettled, hl, hr, ht]⟩

/-- Settles O15: the step is that of the quiet event. -/
theorem nothingHappensWithoutAnEvent : Obligations.NothingHappensWithoutAnEvent :=
  fun s hl hn ht hi => step_of_nextEvent s .quiet (nextEvent_of_nothingDue s hl hn ht hi)

end Sys2Proof.Machine
end

section
/-! PROOFS, 10_state.md: the invariant (O50, O51, O52, O59). -/

namespace Sys2Proof.Machine

/-! ### A slot that is over

Between the completion of one bit operation and the arming of the next, inside one step, the invariant
does not hold. What does hold there is `SlotOver`, with the `Owner` of the operation that has completed. -/

/-- No callback of a slot or of the presence pulse is awaited, the line is released and nothing is
stale. -/
structure SlotOver (s : State) : Prop extends CommonFacts s where
  enabled : s.enabled = true
  timer : TimerIdle s
  driveLow : s.driveLow = false
  stale : s.stale = false

/-- The fields that `SlotOver` speaks of. -/
def slotFields (s : State) :=
  (s.cfg, s.tx, s.rom, s.now, s.lineSeen, s.enabled, s.timer, s.lowStart, s.driveLow, s.stale)

theorem SlotOver.of_fields {s t : State} (h : SlotOver s) (e : slotFields t = slotFields s) :
    SlotOver t := by
  simp only [slotFields, Prod.mk.injEq] at e
  obtain ⟨hcfg, htx, hrom, hnow, hseen, hen, htimer, hlow, hdrive, hstale⟩ := e
  exact {
    cfg_legal := hcfg ▸ h.cfg_legal
    tx_wf := htx ▸ h.tx_wf
    rom_crc := by rw [hen, hrom]; exact h.rom_crc
    timer_future := by rw [htimer, hnow]; exact h.timer_future
    low_past := by rw [hlow, hseen, hnow]; exact h.low_past
    enabled := hen.trans h.enabled
    timer := by unfold TimerIdle; rw [htimer, hlow]; exact h.timer
    driveLow := hdrive.trans h.driveLow
    stale := hstale.trans h.stale }

/-- The fields that `Owner` speaks of. -/
def ownerFields (s : State) :=
  (s.fsm, s.ps, s.txSrc, s.rxLen, s.rxByte, s.searchPhase, s.txCur)

theorem Owner.of_fields {s t : State} {r l : Bool} (h : Owner s r l)
    (e : ownerFields t = ownerFields s) : Owner t r l := by
  simp only [ownerFields, Prod.mk.injEq] at e
  obtain ⟨hfsm, hps, hsrc, hlen, hbyte, hphase, hcur⟩ := e
  cases h with
  | command fsm ps src hr hl rx =>
    exact .command (hfsm.trans fsm) (hps.trans ps) (hsrc.trans src) hr hl (by rwa [hlen, hbyte])
  | search fsm ps src hr hl =>
    exact .search (hfsm.trans fsm) (hps.trans ps) (hsrc.trans src) (by rwa [hphase]) hl
  | matching fsm ps src hr hl rx =>
    exact .matching (hfsm.trans fsm) (hps.trans ps) (hsrc.trans src) hr hl (by rwa [hlen, hbyte])
  | application fsm ps src hr rx =>
    exact .application (hfsm.trans fsm) (hps.trans ps) (hsrc.trans src) hr (by rwa [hlen, hbyte])
  | readRom fsm ps src hr hl cur =>
    exact .readRom (hfsm.trans fsm) (hps.trans ps) (hsrc.trans src) hr hl (by rwa [hcur])
  | client p fsm ps src range hr =>
    exact .client p (hfsm.trans fsm) (hps.trans ps) (hsrc.trans src) range hr

/-- A timer without a slot callback loses nothing when a transaction is left (R207). -/
theorem TimerIdle.withoutSlotCallback {s : State} (h : TimerIdle s) :
    withoutSlotCallback s.timer = s.timer := by
  rcases h with h | ⟨d, t0, h, -⟩ <;> rw [h] <;> rfl

/-- Scheduling the reset check at the end of a slot (R156). -/
theorem SlotOver.scheduleResetCheck {s : State} (h : SlotOver s) : SlotOver (scheduleResetCheck s) := by
  rw [scheduleResetCheck_eq]
  cases hl : s.lowStart with
  | none => exact h.of_fields (by simp [slotFields, hl])
  | some t0 =>
    exact { h with
      timer_future := by rintro e ⟨⟩; exact Nat.le_add_right _ _
      low_past := by simpa [hl] using h.low_past
      timer := .inr ⟨_, t0, rfl, rfl⟩ }

/-! ### The ways on from there -/

/-- The next slot receives (R146). -/
theorem SlotOver.armRecv {s : State} (h : SlotOver s) (ho : Owner s true true) : Inv (armRecv s) :=
  ArmedShape.inv {
    (h.of_fields rfl : SlotOver (Machine.armRecv s)) with
    op := rfl, curBit := rfl, owner := ho.of_fields rfl }

/-- The next slot sends (R147). -/
theorem SlotOver.armSend {s : State} {b : Bool} (h : SlotOver s) (ho : Owner s false true) :
    Inv (armSend b s) :=
  ArmedShape.inv {
    (h.of_fields rfl : SlotOver (Machine.armSend b s)) with
    op := by cases b <;> rfl
    curBit := by cases b <;> rfl
    owner := by cases b <;> exact ho.of_fields rfl }

/-- A receive of one byte by the application loop, once no client send is armed (R230). -/
theorem SlotOver.enterAppLoop {s : State} (h : SlotOver s) (hps : s.ps = none) :
    Inv (enterAppLoop s) :=
  SlotOver.armRecv (h.of_fields rfl) (.application rfl hps rfl (fun _ => rfl) ⟨rfl, rfl⟩)

/-- Leaving the transaction (R207). -/
theorem SlotOver.enterWFR {s : State} (h : SlotOver s) : Inv (enterWFR s) := by
  have hk : SlotOver (Machine.enterWFR s) := h.of_fields (by
    simp [slotFields, h.timer.withoutSlotCallback, h.driveLow, h.stale])
  exact WaitingShape.inv { hk with op := rfl, curBit := rfl, ps := rfl, txSrc := rfl, fsm := rfl }

/-- The error path (R285). -/
theorem SlotOver.raiseError {s : State} {e : EngineError} (h : SlotOver s) : Inv (raiseError e s) :=
  SlotOver.enterWFR (h.of_fields rfl)

/-- The first round of a search (R226). -/
theorem SlotOver.startSearch {s : State} (h : SlotOver s) (hps : s.ps = none) (hsrc : s.txSrc = none) :
    Inv (startSearch s) :=
  SlotOver.armSend (h.of_fields rfl) (.search rfl hps hsrc (by simp) rfl)

/-! ### Outcomes that go on -/

/-- The outcome is a next state, and one that has the invariant. -/
def GoesOn (o : Host.Outcome State Fault Refusal) : Prop := ∃ t, o = .next t ∧ Inv t

theorem goesOn_next {t : State} (h : Inv t) : GoesOn (.next t) := ⟨t, rfl, h⟩

/-- The next bit of the client send that owns the slot (R185). -/
theorem SlotOver.armPsBit {s : State} (h : SlotOver s) {p : PendingSend} (hps : s.ps = some p)
    (hp : p.InRange) (ho : Owner s false true) : GoesOn (armPsBit s) := by
  obtain ⟨b, -, harm⟩ := armPsBit_of_inRange p s hps hp
  rw [harm, ← armSend_eq]
  exact goesOn_next (h.armSend ho)

/-! ### The byte layer -/

/-- After a dropped operation the next slot is the present owner's (R188). -/
theorem SlotOver.armNext {s : State} {r : Bool} (h : SlotOver s) (ho : Owner s r false) :
    GoesOn (armNext s) := by
  cases ho with
  | application fsm ps src hr rx =>
    rw [Machine.armNext, if_neg (by simp [fsm])]
    exact goesOn_next (h.armRecv (.application fsm ps src (fun _ => rfl) rx))
  | client p fsm ps src range hr =>
    rw [Machine.armNext, if_pos ⟨fsm, src⟩]
    exact h.armPsBit ps range (.client p fsm ps src range (fun _ => rfl))
  | command _ _ _ _ hl | search _ _ _ _ hl | matching _ _ _ _ hl | readRom _ _ _ _ hl => cases hl

/-- The end of a client send (R187). -/
theorem SlotOver.sendComplete {s : State} (h : SlotOver s) : Inv (sendComplete s) :=
  SlotOver.enterAppLoop (h.of_fields rfl) rfl

/-- The byte cursor of a send after one more bit is at most the length (R186). -/
theorem nextByteCur_le {byteCur len : Nat} (h : byteCur < len) (bitCur : BitVec 3) :
    (if bitCur = 7 then byteCur + 1 else byteCur) ≤ len := by split <;> omega

/-- A client send goes on with its next bit or is over (R186). -/
theorem SlotOver.clientSendProgress {s : State} (h : SlotOver s) {p : PendingSend}
    (fsm : s.fsm = .sendingBytes) (ps : s.ps = some p) (src : s.txSrc = some .client)
    (range : p.InRange) : GoesOn (clientSendProgress s) := by
  unfold Machine.clientSendProgress
  rw [ps]
  obtain ⟨payload, hasCb⟩ := p
  cases payload with
  | bit value again =>
    cases again with
    | true => exact goesOn_next (h.armSend (.client _ fsm ps src range (fun _ => rfl)))
    | false => exact goesOn_next h.sendComplete
  | bytes buf len byteCur bitCur =>
    have hle := nextByteCur_le (range buf len byteCur bitCur rfl) bitCur
    dsimp only
    generalize (if bitCur = 7 then byteCur + 1 else byteCur) = next at hle ⊢
    split
    · exact goesOn_next (SlotOver.sendComplete (h.of_fields rfl))
    next hne =>
      have hrange : PendingSend.InRange ⟨.bytes buf len next (bitCur + 1), hasCb⟩ := by
        rintro _ _ _ _ ⟨⟩
        omega
      exact SlotOver.armPsBit (h.of_fields rfl) rfl hrange
        (.client _ fsm rfl src hrange (fun _ => rfl))

/-- The cursor of Read ROM after one more bit (R223). -/
theorem txCur_succ (n : BitVec 7) (h : n.toNat < 64) : n + 1 = 64 ∨ (n + 1).toNat < 64 := by
  bv_omega

/-- Read ROM goes on with its next bit, or all 64 are out (R223). -/
theorem SlotOver.readRomProgress {s : State} (h : SlotOver s) (fsm : s.fsm = .sendingBytes)
    (ps : s.ps = none) (src : s.txSrc = some .rom) (cur : s.txCur.toNat < 64) :
    GoesOn (readRomProgress s) := by
  unfold Machine.readRomProgress
  dsimp only
  split
  · exact goesOn_next (SlotOver.enterAppLoop (h.of_fields rfl) ps)
  next hne =>
    have hlt := (txCur_succ s.txCur cur).resolve_left hne
    rw [if_pos hlt]
    exact goesOn_next (SlotOver.armSend (h.of_fields rfl) (.readRom fsm ps src rfl rfl hlt))

/-- The complement follows the bit, and the direction the complement (R227). -/
theorem SlotOver.searchSendDone {s : State} (h : SlotOver s) (fsm : s.fsm = .searchingRom)
    (ps : s.ps = none) (src : s.txSrc = none) : Inv (searchSendDone s) := by
  unfold Machine.searchSendDone
  cases s.searchPhase with
  | sendTrue => exact SlotOver.armSend (h.of_fields rfl) (.search fsm ps src (by simp) rfl)
  | sendComplement => exact SlotOver.armRecv (h.of_fields rfl) (.search fsm ps src (by simp) rfl)
  | recvDirection => exact SlotOver.armRecv (h.of_fields rfl) (.search fsm ps src (by simp) rfl)

/-- The search is lost, is over, or goes on with its next round (R228). -/
theorem SlotOver.searchRecvDone {s : State} {b : Bool} (h : SlotOver s) (fsm : s.fsm = .searchingRom)
    (ps : s.ps = none) (src : s.txSrc = none) : Inv (searchRecvDone b s) := by
  unfold Machine.searchRecvDone
  split
  · exact h.enterWFR
  · split
    · exact SlotOver.enterWFR (h.of_fields rfl)
    · exact SlotOver.armSend (h.of_fields rfl) (.search fsm ps src (by simp) rfl)

/-- A send has completed (R189): by its owner, or dropped if its owner was cancelled. -/
theorem sendBitDone_goesOn {s : State} (h : SlotOver { s with stale := false })
    (ho : Owner s false (!s.stale)) : GoesOn (sendBitDone s) := by
  unfold sendBitDone
  cases hst : s.stale with
  | true =>
    rw [hst] at ho
    exact SlotOver.armNext h (ho.of_fields rfl)
  | false =>
    rw [hst] at ho
    have hs : SlotOver s := h.of_fields (by simp [slotFields, hst])
    cases ho with
    | search fsm ps src hr hl =>
      rw [fsm]
      exact goesOn_next (hs.searchSendDone fsm ps src)
    | readRom fsm ps src hr hl cur =>
      rw [fsm, src]
      exact hs.readRomProgress fsm ps src cur
    | client p fsm ps src range hr =>
      rw [fsm, src]
      exact hs.clientSendProgress fsm ps src range
    | application fsm ps src hr rx => cases hr rfl
    | command _ _ _ hr | matching _ _ _ hr => cases hr

/-! ### The ROM commands and the receives -/

/-- Every command byte goes on: to a search, a match, a send, the loop or WaitingForReset (R210 to
R217). -/
theorem SlotOver.command {s : State} {v : Byte} (h : SlotOver s) (ps : s.ps = none)
    (src : s.txSrc = none) : GoesOn (dispatchCommand v s) := by
  simp only [dispatchCommand, decode, decodeCommand]
  split_ifs <;> refine goesOn_next ?_
  · exact h.startSearch ps src
  · split
    · exact h.startSearch ps src
    · exact h.enterWFR
  · exact SlotOver.armRecv (h.of_fields rfl) (.matching rfl ps src rfl rfl ⟨rfl, Nat.zero_lt_succ 7⟩)
  · exact h.enterAppLoop ps
  · exact SlotOver.armSend (h.of_fields rfl) (.readRom rfl ps rfl rfl rfl (Nat.zero_lt_succ 63))
  · split
    · exact h.enterAppLoop ps
    · exact h.enterWFR
  · exact h.raiseError

/-- The match compare (R221). -/
theorem SlotOver.matchCompare {s : State} (h : SlotOver s) (ps : s.ps = none) :
    Inv (matchCompare s) := by
  unfold Machine.matchCompare
  split
  · exact SlotOver.enterAppLoop (h.of_fields rfl) ps
  · exact SlotOver.enterWFR (h.of_fields rfl)

/-- A byte of Match ROM has its place in the buffer (R183, R220). -/
theorem SlotOver.matchByte {s : State} {v : Byte} (h : SlotOver s) (fsm : s.fsm = .matchingRom)
    (ps : s.ps = none) (src : s.txSrc = none) (rx : s.rxLen = 8 ∧ s.rxByte.toNat < 8) :
    GoesOn (matchByte v s) := by
  rw [Machine.matchByte, if_pos rx.2]
  dsimp only
  split
  next hlt =>
    have hroom : (s.rxByte + 1).toNat < 8 := by bv_omega
    exact goesOn_next
      (SlotOver.armRecv (h.of_fields rfl) (.matching fsm ps src rfl rfl ⟨rx.1, hroom⟩))
  · exact goesOn_next (SlotOver.matchCompare (h.of_fields rfl) ps)

/-- A received bit of a byte, the eighth included, in the three states that receive bytes (R182, R183). -/
theorem SlotOver.accumulate {s : State} {b : Bool} (h : SlotOver s) (ho : Owner s true true)
    (hf : s.fsm ≠ .searchingRom) : GoesOn (accumulate b s) := by
  unfold Machine.accumulate
  dsimp only
  split
  · exact goesOn_next (SlotOver.armRecv (h.of_fields rfl) (ho.of_fields rfl))
  · unfold byteComplete
    cases ho with
    | command fsm ps src hr hl rx =>
      simp only [fsm]
      exact SlotOver.command (h.of_fields (by rw [← fsm]; rfl)) ps src
    | matching fsm ps src hr hl rx =>
      simp only [fsm]
      exact SlotOver.matchByte (h.of_fields rfl) rfl ps src rx
    | application fsm ps src hr rx =>
      simp only [fsm]
      exact goesOn_next
        (SlotOver.armRecv (h.of_fields rfl) (.application rfl ps src (fun _ => rfl) rx))
    | search fsm ps src hr hl => exact absurd fsm hf
    | client p fsm ps src range hr => cases hr rfl
    | readRom _ _ _ hr => cases hr

/-- A receive has completed (R190): by its owner, or dropped if its owner was cancelled. -/
theorem recvBitDone_goesOn {s : State} (h : SlotOver { s with stale := false })
    (ho : Owner s true (!s.stale)) (b : Bool) : GoesOn (recvBitDone b false s) := by
  unfold recvBitDone
  cases hst : s.stale with
  | true =>
    rw [hst] at ho
    exact SlotOver.armNext h (ho.of_fields rfl)
  | false =>
    rw [hst] at ho
    have hs : SlotOver s := h.of_fields (by simp [slotFields, hst])
    simp only [Bool.false_eq_true, if_false]
    split
    next hf =>
      cases ho with
      | search fsm ps src hr hl => exact goesOn_next (hs.searchRecvDone fsm ps src)
      | _ => simp_all
    next hf =>
      split
      · exact SlotOver.accumulate (hs.of_fields rfl) (ho.of_fields rfl) hf
      · exact hs.accumulate ho hf

/-! ### The end of a slot -/

/-- A sent bit has completed: the reset check is scheduled, then its owner goes on (R151, R155, R156). -/
theorem slotSent_goesOn {s : State} (h : SlotOver { s with stale := false })
    (ho : Owner s false (!s.stale)) : GoesOn (sendBitDone { scheduleResetCheck s with op := .idle }) := by
  refine sendBitDone_goesOn (h.scheduleResetCheck.of_fields ?_) ?_
  · simp [slotFields, scheduleResetCheck_eq]
  · rw [scheduleResetCheck_eq]
    exact ho.of_fields rfl

/-- The Sample callback (R154). -/
theorem sample_goesOn {s : State} (h : SlotOver { s with stale := false })
    (ho : Owner s true (!s.stale)) : GoesOn (sample s) := by
  refine recvBitDone_goesOn (h.scheduleResetCheck.of_fields ?_) ?_ s.line
  · simp [slotFields, scheduleResetCheck_eq]
  · rw [scheduleResetCheck_eq]
    exact ho.of_fields rfl

theorem WaitingShape.slotOver {s : State} (h : WaitingShape s) : SlotOver s := { h with }

theorem ArmedShape.slotOver {s : State} (h : ArmedShape s) : SlotOver s := { h with }

/-! ### The edges (42_bit_transceiver.md R148 to R153) -/

/-- An ignored edge does nothing (R148). -/
theorem edge_of_ignored {s : State} (h : edgeIgnored s = true) : rise s = .next s ∧ fall s = .next s := by
  simp [rise, fall, h]

/-- What a rising edge leaves that is not ignored: the fall and a reset check are forgotten (R153). -/
def risen (s : State) : State := { s with lowStart := none, timer := withoutResetCheck s.timer }

/-- What a falling edge leaves that is not ignored, before a slot starts (R149). -/
def fallen (s : State) : State := { s with lowStart := some s.now }

/-- An edge is heard while the block is enabled and not asserting presence (R148). -/
theorem edgeIgnored_eq_false {s : State} (he : s.enabled = true) (hf : s.fsm ≠ .assertingPresence) :
    edgeIgnored s = false := by
  simp [edgeIgnored, he, hf]

/-- A rising edge that ends no pulse of a reset (R153). -/
theorem rise_eq_risen {s : State} (hi : edgeIgnored s = false)
    (h : s.fsm ≠ .waitingForReset ∨ s.lowStart = none) : rise s = .next (risen s) := by
  simp only [rise, hi, Bool.false_eq_true, if_false]
  split
  next hf hl => simp_all
  · rfl

/-- A rising edge that ends a low pulse while waiting for a reset (R201). -/
theorem rise_eq_classifyPulse {s : State} {t0 : Nat} (hi : edgeIgnored s = false)
    (hf : s.fsm = .waitingForReset) (hl : s.lowStart = some t0) :
    rise s = .next (classifyPulse (s.now - t0) (risen s)) := by
  simp [rise, hi, hf, hl, risen]

/-- A falling edge while waiting for a reset (R149). -/
theorem fall_eq_fallen {s : State} (hi : edgeIgnored s = false) (hf : s.fsm = .waitingForReset) :
    fall s = .next (fallen s) := by
  simp [fall, hi, hf, fallen]

/-- A falling edge in a transaction starts the slot of the armed operation (R149). -/
theorem fall_eq_startSlot {s : State} (hi : edgeIgnored s = false) (hf : s.fsm ≠ .waitingForReset) :
    fall s = startSlot (fallen s) := by
  simp [fall, hi, hf, fallen]

/-- In a running transaction every rising edge is heard, and ends no pulse of a reset. -/
theorem Owner.rise_eq {s : State} {r l : Bool} (h : Owner s r l) (he : s.enabled = true) :
    rise s = .next (risen s) := by
  obtain ⟨⟨-, unwaiting, unasserting⟩, -⟩ := h.facts
  exact rise_eq_risen (edgeIgnored_eq_false he unasserting) (.inl unwaiting)

/-- In a running transaction every falling edge is heard, and starts a slot. -/
theorem Owner.fall_eq {s : State} {r l : Bool} (h : Owner s r l) (he : s.enabled = true) :
    fall s = startSlot (fallen s) := by
  obtain ⟨⟨-, unwaiting, unasserting⟩, -⟩ := h.facts
  exact fall_eq_startSlot (edgeIgnored_eq_false he unasserting) unwaiting

/-- A rising edge cancels what an idle timer holds (R153). -/
theorem TimerIdle.withoutResetCheck {s : State} (h : TimerIdle s) :
    withoutResetCheck s.timer = none := by
  rcases h with h | ⟨d, t0, h, -⟩ <;> rw [h] <;> rfl

/-- The end of a low pulse while waiting: too short, too long, or a reset (R202 to R204). -/
theorem WaitingShape.classifyPulse {s : State} (h : WaitingShape s) (hl : s.lowStart = none) (d : Nat) :
    Inv (classifyPulse d s) := by
  unfold Machine.classifyPulse
  split
  · exact h.inv
  · split
    · exact h.slotOver.raiseError
    · exact PresenceShape.inv { h with
        timer_future := by rintro e ⟨⟩; exact Nat.le_add_right _ _
        op := rfl
        fsm := rfl
        phase := .inl ⟨rfl, h.driveLow, _, rfl⟩
        lowStart := hl }

/-- Another level seen, where no fall is recorded. -/
theorem Inv.seen {s : State} (h : Inv s) (hl : s.lowStart = none) (l : Bool) :
    Inv { s with lineSeen := l } :=
  { h with low_start := fun t ht => by simp [hl] at ht }

/-- The rising edge (R153), by the shape of the state that it finds. -/
theorem rise_goesOn {s : State} (h : Inv s) (he : EdgeDue s true) :
    GoesOn (rise { s with lineSeen := true }) := by
  have released : s.driveLow = false := by
    have hline := he.1
    simp only [State.line, Bool.and_eq_true, Bool.not_eq_true'] at hline
    exact hline.2
  rcases inv_shapes h with hd | hw | hp | ha | hs | hh
  · rw [(edge_of_ignored (by simp [edgeIgnored, hd.enabled])).1]
    exact goesOn_next (h.seen hd.lowStart true)
  · have heard := edgeIgnored_eq_false (s := { s with lineSeen := true }) hw.enabled (by simp [hw.fsm])
    have waiting : WaitingShape (risen { s with lineSeen := true }) := { hw with
      timer_future := by rintro e he; cases hw.timer.withoutResetCheck.symm.trans he
      low_past := by rintro t ⟨⟩
      timer := .inl hw.timer.withoutResetCheck }
    cases hl : s.lowStart with
    | none =>
      rw [rise_eq_risen heard (.inr hl)]
      exact goesOn_next waiting.inv
    | some t0 =>
      rw [rise_eq_classifyPulse heard hw.fsm hl]
      exact goesOn_next (waiting.classifyPulse rfl _)
  · rw [(edge_of_ignored (by simp [edgeIgnored, hp.fsm])).1]
    exact goesOn_next (h.seen hp.lowStart true)
  · have owner : Owner { s with lineSeen := true } (s.op == .recvArmed) true := ha.owner.of_fields rfl
    rw [owner.rise_eq ha.enabled]
    exact goesOn_next (ArmedShape.inv { ha with
      timer_future := by rintro e he; cases ha.timer.withoutResetCheck.symm.trans he
      low_past := by rintro t ⟨⟩
      timer := .inl ha.timer.withoutResetCheck
      owner := ha.owner.of_fields rfl })
  · have owner : Owner { s with lineSeen := true } true (!s.stale) := hs.owner.of_fields rfl
    obtain ⟨d, hd⟩ := hs.timer
    have kept : withoutResetCheck s.timer = s.timer := by rw [hd]; rfl
    rw [owner.rise_eq hs.enabled]
    exact goesOn_next (SamplingShape.inv { hs with
      timer_future := fun e he => hs.timer_future e (kept.symm.trans he)
      low_past := by rintro t ⟨⟩
      timer := ⟨d, kept.trans hd⟩
      owner := hs.owner.of_fields rfl })
  · cases released.symm.trans hh.driveLow

/-- The slot of an armed operation starts at a falling edge that is seen now (R150 to R152). -/
theorem ArmedShape.startSlot {s : State} (h : ArmedShape s) (hlow : s.lowStart = some s.now) :
    GoesOn (startSlot s) := by
  have ho := h.owner
  cases hop : s.op with
  | recvArmed =>
    simp only [Machine.startSlot, hop]
    rw [hop] at ho
    exact goesOn_next (SamplingShape.inv { h with
      timer_future := by rintro e ⟨⟩; exact Nat.le_add_right _ _
      op := rfl
      curBit := by simpa [hop, BitOp.sentBit] using h.curBit
      timer := ⟨_, rfl⟩
      owner := by rw [timerSchedule_stale, h.stale]; exact ho.of_fields rfl })
  | send1Armed =>
    simp only [Machine.startSlot, hop]
    rw [hop] at ho
    exact slotSent_goesOn (h.slotOver.of_fields (by simp [slotFields, h.stale]))
      (by rw [h.stale]; exact ho)
  | send0Armed =>
    simp only [Machine.startSlot, hop]
    rw [hop] at ho
    exact goesOn_next (HoldingShape.inv { h with
      timer_future := by rintro e ⟨⟩; exact Nat.le_add_right _ _
      op := rfl
      curBit := by simpa [hop, BitOp.sentBit] using h.curBit
      timer := ⟨_, rfl⟩
      driveLow := rfl
      low := ⟨_, hlow⟩
      owner := by rw [timerSchedule_stale, h.stale]; exact ho.of_fields rfl })
  | idle | recvSampling | send0Holding => simpa [hop, BitOp.armed] using h.op

/-- The falling edge (R149), by the shape of the state that it finds. No fall is recorded there, since the
line was last seen high. -/
theorem fall_goesOn {s : State} (h : Inv s) (he : EdgeDue s false) :
    GoesOn (fall { s with lineSeen := false }) := by
  have unrecorded : s.lowStart = none := by
    cases hl : s.lowStart with
    | none => rfl
    | some t => exact absurd (h.low_start t hl).1 (by simp [he.2])
  have unchecked : TimerIdle s → s.timer = none := by
    rintro (ht | ⟨d, t0, -, hl⟩)
    · exact ht
    · cases unrecorded.symm.trans hl
  have seen : ∀ t, some s.now = some t → false = false ∧ t ≤ s.now := by
    rintro t ⟨⟩
    exact ⟨rfl, le_rfl⟩
  rcases inv_shapes h with hd | hw | hp | ha | hs | hh
  · rw [(edge_of_ignored (by simp [edgeIgnored, hd.enabled])).2]
    exact goesOn_next (h.seen hd.lowStart false)
  · have heard := edgeIgnored_eq_false (s := { s with lineSeen := false }) hw.enabled (by simp [hw.fsm])
    rw [fall_eq_fallen heard hw.fsm]
    exact goesOn_next (WaitingShape.inv { hw with
      low_past := seen
      timer := .inl (unchecked hw.timer) })
  · rw [(edge_of_ignored (by simp [edgeIgnored, hp.fsm])).2]
    exact goesOn_next (h.seen hp.lowStart false)
  · have owner : Owner { s with lineSeen := false } (s.op == .recvArmed) true := ha.owner.of_fields rfl
    rw [owner.fall_eq ha.enabled]
    exact ArmedShape.startSlot { ha with
      low_past := seen
      timer := .inl (unchecked ha.timer)
      owner := ha.owner.of_fields rfl } rfl
  · have owner : Owner { s with lineSeen := false } true (!s.stale) := hs.owner.of_fields rfl
    rw [owner.fall_eq hs.enabled]
    simp only [startSlot, fallen, hs.op]
    exact goesOn_next (SamplingShape.inv { hs with
      op := rfl
      low_past := seen
      owner := hs.owner.of_fields rfl })
  · obtain ⟨t0, hl⟩ := hh.low
    cases unrecorded.symm.trans hl

/-! ### The timer (41_timer.md R134) -/

/-- The state in which a callback of the timer runs: the slot cleared, at the time of the deadline. -/
def fired (s : State) (n k : Nat) : State := { s with timer := none, now := n, ties := k }

theorem CommonFacts.fired {s : State} (h : CommonFacts s) {n : Nat} (hn : s.now ≤ n) (k : Nat) :
    CommonFacts (fired s n k) := { h with
  timer_future := by rintro e ⟨⟩
  low_past := fun t ht => ⟨(h.low_past t ht).1, (h.low_past t ht).2.trans hn⟩ }

/-- An idle timer that fires runs the reset check. -/
theorem TimerIdle.callback {s : State} (h : TimerIdle s) {e : TimerEvent} (ht : s.timer = some e) :
    e.cb = .resetCheck := by
  rcases h with h | ⟨d, t0, h, -⟩ <;> cases h.symm.trans ht
  rfl

/-- The firing of the timer, by the shape of the state, which tells the callback (R41 (d)). -/
theorem timer_goesOn {s : State} (h : Inv s) {e : TimerEvent} (ht : s.timer = some e) {n : Nat}
    (hn : s.now ≤ n) (k : Nat) : GoesOn (runCallback e.cb (fired s n k)) := by
  rcases inv_shapes h with hd | hw | hp | ha | hs | hh
  · cases hd.timer.symm.trans ht
  · have hf : WaitingShape (fired s n k) := { hw.fired hn k, hw with timer := .inl rfl }
    rw [hw.timer.callback ht]
    have hsame : resetCheck (fired s n k) = fired s n k := if_neg (by simp [hf.fsm])
    rw [runCallback, hsame]
    exact goesOn_next hf.inv
  · have hc := hp.fired hn k
    rcases hp.phase with ⟨-, -, d, hcb⟩ | ⟨-, -, d, hcb⟩ <;> cases hcb.symm.trans ht
    · exact goesOn_next (PresenceShape.inv { hc, hp with
        timer_future := by rintro e ⟨⟩; exact Nat.le_add_right _ _
        phase := .inr ⟨rfl, rfl, _, rfl⟩ })
    · have hover : SlotOver { fired s n k with driveLow := false, lowStart := none } := { hc, hp with
        low_past := by rintro t ⟨⟩
        timer := .inl rfl
        driveLow := rfl }
      exact goesOn_next (SlotOver.armRecv (hover.of_fields rfl)
        (.command rfl hp.ps hp.txSrc rfl rfl ⟨rfl, rfl⟩))
  · have hf : ArmedShape (fired s n k) := { ha.fired hn k, ha with
      timer := .inl rfl
      owner := ha.owner.of_fields rfl }
    rw [ha.timer.callback ht]
    refine goesOn_next ?_
    unfold resetCheck
    split
    · exact hf.slotOver.enterWFR
    · exact hf.inv
  · obtain ⟨d, hcb⟩ := hs.timer
    cases hcb.symm.trans ht
    have hover : SlotOver { fired s n k with stale := false } := { hs.fired hn k, hs with
      timer := .inl rfl
      stale := rfl }
    exact sample_goesOn hover (hs.owner.of_fields rfl)
  · obtain ⟨d, hcb⟩ := hh.timer
    cases hcb.symm.trans ht
    have hover : SlotOver { fired s n k with driveLow := false, stale := false } :=
      { hh.fired hn k, hh with
        timer := .inl rfl
        driveLow := rfl
        stale := rfl }
    exact slotSent_goesOn (s := { fired s n k with driveLow := false }) hover (hh.owner.of_fields rfl)

/-! ### The client (45_client_port.md) -/

/-- The environment and the client's memory have moved on, the block has not. -/
theorem Inv.of_later {s t : State} (h : Inv s) (hb : t.toBlock = s.toBlock) (hcfg : t.cfg = s.cfg)
    (htx : Memory.wf t.tx = true) (hseen : t.lineSeen = s.lineSeen) (hnow : s.now ≤ t.now)
    (hdue : ∀ e, s.timer = some e → t.now ≤ e.deadline) : Inv t := by
  obtain ⟨b, env⟩ := t
  cases hb
  exact { h with
    cfg_legal := hcfg ▸ h.cfg_legal
    timer_future := hdue
    low_start := fun t ht =>
      have hlow := h.low_start t ht
      ⟨hseen.trans hlow.1, hlow.2.1.trans hnow, hlow.2.2⟩
    tx_wf := htx }

/-- Only the environment's fields that the invariant does not read were written. -/
theorem Inv.of_same {s t : State} (h : Inv s) (hb : t.toBlock = s.toBlock) (hcfg : t.cfg = s.cfg)
    (htx : t.tx = s.tx) (hseen : t.lineSeen = s.lineSeen) (hnow : t.now = s.now) : Inv t :=
  h.of_later hb hcfg (htx ▸ h.tx_wf) hseen hnow.ge (hnow ▸ h.timer_future)

/-- `begin` (R251): whatever the block was, it is now waiting for a reset, with a correct checksum. -/
theorem setUp_inv {s : State} (hcfg : s.cfg.Legal) (htx : Memory.wf s.tx = true) (r : Bytes7) :
    Inv (setUp r s) :=
  WaitingShape.inv {
    cfg_legal := hcfg, tx_wf := htx, rom_crc := fun _ => rfl
    timer_future := by rintro e ⟨⟩
    low_past := by rintro t ⟨⟩
    op := rfl, curBit := rfl, ps := rfl, txSrc := rfl, stale := rfl, enabled := rfl, fsm := rfl
    timer := .inl rfl, driveLow := rfl }

/-- `end` (R252). -/
theorem tearDown_inv {s : State} (h : Inv s) : Inv (tearDown s) :=
  DisabledShape.inv { h with
    timer_future := by rintro e ⟨⟩
    low_past := by rintro t ⟨⟩
    rom_crc := by rintro ⟨⟩
    op := rfl, curBit := rfl, ps := rfl, txSrc := rfl, stale := rfl, enabled := rfl, fsm := rfl
    timer := rfl, lowStart := rfl, driveLow := rfl }

/-- In the application byte loop an operation is outstanding (R30). -/
theorem inv_shapes_of_inLoop {s : State} (h : Inv s) (hl : InLoop s) :
    ArmedShape s ∨ SamplingShape s ∨ HoldingShape s := by
  rcases inv_shapes h with hd | hw | hp | h
  · simp [InLoop, hd.fsm] at hl
  · simp [InLoop, hw.fsm] at hl
  · simp [InLoop, hp.fsm] at hl
  · exact h

/-- A new send takes the next slot, or makes the operation in flight stale (R256). -/
theorem armNewSend_goesOn {s : State} (h : Inv s) (hl : InLoop s) {p : PendingSend} (hp : p.InRange)
    (said : List Emission) :
    GoesOn (armNewSend p { s with ps := none, out := s.out ++ said }) := by
  obtain ⟨b, -, heq⟩ := armNewSend_of_inRange p { s with ps := none, out := s.out ++ said } hp
  rw [heq]
  refine goesOn_next ?_
  rcases inv_shapes_of_inLoop h hl with ha | hs | hh
  · rw [if_pos ha.op]
    exact SlotOver.armSend (ha.slotOver.of_fields rfl) (.client p rfl rfl rfl hp (fun _ => rfl))
  · rw [if_neg (by simp [hs.op, BitOp.armed])]
    exact SamplingShape.inv { hs with
      owner := .client p rfl rfl rfl hp (by rintro ⟨⟩) }
  · rw [if_neg (by simp [hh.op, BitOp.armed])]
    exact HoldingShape.inv { hh with
      owner := .client p rfl rfl rfl hp (by rintro ⟨⟩) }

/-- The empty send gives way to reception (R258). -/
theorem emptySend_inv {s : State} (h : Inv s) (hl : InLoop s) (said : List Emission) :
    Inv (emptySend { s with ps := none, out := s.out ++ said }) := by
  rcases hl with hf | ⟨hf, hsrc⟩
  · have hps : s.ps = none := by simpa [hf] using h.ps_iff
    have hsame : emptySend { s with ps := none, out := s.out ++ said } =
        { s with ps := none, out := s.out ++ said } := by simp [emptySend, hf]
    rw [hsame]
    exact h.of_same (by simp [← hps]) rfl rfl rfl rfl
  · simp only [emptySend, hf, if_true]
    rcases inv_shapes_of_inLoop h (.inr ⟨hf, hsrc⟩) with ha | hs | hh
    · have hop := ha.op
      cases ho : s.op with
      | send1Armed | send0Armed =>
        exact SlotOver.armRecv (ha.slotOver.of_fields rfl)
          (.application rfl rfl rfl (fun _ => rfl) ⟨rfl, rfl⟩)
      | recvArmed =>
        have howner := h.recv_owner (.inl ho) ha.stale
        simp [hf] at howner
      | idle | recvSampling | send0Holding => simp [ho, BitOp.armed] at hop
    · rw [hs.op]
      dsimp only
      exact SamplingShape.inv { hs with
        op := rfl
        owner := .application rfl rfl rfl (fun _ => rfl) ⟨rfl, rfl⟩ }
    · rw [hh.op]
      dsimp only
      exact HoldingShape.inv { hh with
        op := rfl
        owner := .application rfl rfl rfl (by rintro ⟨⟩) ⟨rfl, rfl⟩ }

/-- Queueing a send, refused or not (R256 to R260). -/
theorem queueSend_goesOn {s : State} (h : Inv s) {new : Option PendingSend}
    (hnew : ∀ p, new = some p → p.InRange) : GoesOn (queueSend new s) := by
  cases he : s.enabled with
  | false =>
    rw [queueSend_disabled new s he]
    exact goesOn_next h
  | true =>
    by_cases hl : InLoop s
    · rw [queueSend_inLoop new s he hl]
      cases new with
      | none => exact goesOn_next (emptySend_inv h hl _)
      | some p => exact armNewSend_goesOn h hl (hnew p rfl) _
    · rw [queueSend_outside new s he hl]
      cases new with
      | none => exact goesOn_next h
      | some p => exact goesOn_next (h.of_same rfl rfl rfl rfl rfl)

/-- What `write` queues has a byte to send (R256). -/
theorem bytesSend_inRange {buf : Option Nat} {len : Nat} {hasCb : Bool} {p : PendingSend}
    (h : bytesSend buf len hasCb = some p) : p.InRange := by
  cases buf with
  | none => cases h
  | some b =>
    simp only [bytesSend] at h
    split at h
    · cases h
    next hlen =>
      cases h
      rintro _ _ _ _ ⟨⟩
      exact Nat.pos_of_ne_zero hlen

/-- What `writeBit` queues (R257). -/
theorem bitSend_inRange (value again hasCb : Bool) : (bitSend value again hasCb).InRange := by
  rintro _ _ _ _ ⟨⟩

/-- Every client operation (R250 to R261). -/
theorem clientOperation_goesOn {s : State} (h : Inv s) (r : ClientReq) :
    GoesOn (exec (decode (.client r)) s) := by
  simp only [decode, decodeClient]
  split_ifs <;> simp only [exec]
  · refine goesOn_next (setUp_inv ?_ ?_ _) <;> split
    exacts [h.cfg_legal, h.cfg_legal, h.tx_wf, h.tx_wf]
  · refine goesOn_next ?_
    split
    · exact tearDown_inv h
    · exact h
  · exact goesOn_next { h with }
  · exact goesOn_next { h with }
  · exact goesOn_next { h with }
  · exact queueSend_goesOn h fun p => bytesSend_inRange
  · refine queueSend_goesOn h ?_
    rintro p ⟨⟩
    exact bitSend_inRange _ _ _
  · exact queueSend_goesOn h (by rintro p ⟨⟩)
  · exact goesOn_next (h.of_same rfl rfl rfl rfl rfl)
  · exact goesOn_next h

/-- What the client does, an operation or a store into its own memory. -/
theorem applyAct_goesOn {s : State} {a : ClientAct} (h : Inv s) : GoesOn (applyAct a s) := by
  cases a with
  | operation req => exact clientOperation_goesOn h req
  | store addr v =>
    exact goesOn_next (h.of_later rfl rfl (memory_write_wf s.tx addr v h.tx_wf) rfl le_rfl h.timer_future)

/-! ### The step -/

/-- Every step from a state with the invariant has a next state, which has it again. -/
theorem step_goesOn {s : State} (h : Inv s) : GoesOn (step s) := by
  rcases step_agents s _ rfl with ⟨hdue, hr⟩ | ⟨hdue, hf⟩ | ⟨-, -, -, hq⟩ | ⟨e, k, -, ht, -, hc⟩ |
    ⟨l, n, rest, k, hn, hd, he⟩ | ⟨a, n, rest, later, k, -, hn, hd, ha⟩
  · rw [hr]; exact rise_goesOn h hdue
  · rw [hf]; exact fall_goesOn h hdue
  · rw [hq]; exact goesOn_next h
  · rw [hc]; exact timer_goesOn h ht (le_max_left _ _) k
  · rw [he]; exact goesOn_next (h.of_later rfl rfl h.tx_wf rfl hn hd)
  · rw [ha]
    refine applyAct_goesOn (h.of_later rfl rfl h.tx_wf rfl hn ?_)
    rcases hd with rfl | hd
    · exact h.timer_future
    · exact hd

/-- Settles O51: `step_goesOn`, whose next state is the only one. -/
theorem stepKeepsInvariant : Obligations.StepKeepsInvariant := by
  intro s t h hs
  obtain ⟨u, hu, hinv⟩ := step_goesOn h
  cases hu.symm.trans hs
  exact hinv

/-- Settles O52: `step_goesOn`, less the invariant of the next state. -/
theorem invariantStepAlwaysGoesOn : Obligations.InvariantStepAlwaysGoesOn := by
  intro s h
  obtain ⟨t, ht, -⟩ := step_goesOn h
  exact ⟨t, ht⟩

/-- Settles O50: power-on reset leaves the block disabled (R321). -/
theorem invariantAtReset : Obligations.InvariantAtReset :=
  DisabledShape.inv {
    cfg_legal := by decide
    tx_wf := rfl
    rom_crc := by rintro ⟨⟩
    timer_future := by rintro e ⟨⟩
    low_past := by rintro t ⟨⟩
    op := rfl, curBit := rfl, ps := rfl, txSrc := rfl, stale := rfl, enabled := rfl, fsm := rfl
    timer := rfl, lowStart := rfl, driveLow := rfl }

/-- Settles O59: `drive_low` as the invariant has it, and the wired-AND (R75). -/
theorem lineDrivenLowOnlyWhenHolding : Obligations.LineDrivenLowOnlyWhenHolding := by
  intro s h
  refine ⟨fun hd => ⟨?_, h.drive_low.1 hd⟩, fun hd => ?_⟩
  · rw [State.line, hd, Bool.not_true, Bool.and_false]
  · rw [State.line, hd, Bool.not_false, Bool.and_true]

end Sys2Proof.Machine
end

section
/-! PROOFS, 10_state.md: who writes the identity and the flags (O54, O55), and the disabled block (O58). -/

namespace Sys2Proof.Machine

/-! ### `resume_allowed` below the events (R26, R221) -/

/-- Every next state of the outcome has this value in `resume_allowed`. -/
def LeavesResume (v : Bool) (o : Host.Outcome State Fault Refusal) : Prop :=
  ∀ t, o = .next t → t.resumeAllowed = v

theorem leavesResume_next {t : State} {v : Bool} (h : t.resumeAllowed = v) :
    LeavesResume v (.next t) := by
  rintro _ ⟨⟩
  exact h

theorem leavesResume_fault (v : Bool) (f : Fault) : LeavesResume v (.fault f) := by
  rintro _ ⟨⟩

theorem leavesResume_armPsBit (s : State) : LeavesResume s.resumeAllowed (armPsBit s) := by
  intro t h
  obtain ⟨p, b, -, -, rfl⟩ := armPsBit_next s t h
  rfl

theorem leavesResume_armNext (s : State) : LeavesResume s.resumeAllowed (armNext s) := by
  unfold armNext
  split
  · exact leavesResume_armPsBit s
  · exact leavesResume_next rfl

theorem leavesResume_clientSendProgress (s : State) :
    LeavesResume s.resumeAllowed (clientSendProgress s) := by
  unfold clientSendProgress
  split
  · exact leavesResume_fault _ _
  · split
    · split <;> exact leavesResume_next rfl
    next buf len byteCur bitCur hp =>
      dsimp only
      generalize (if bitCur = 7 then byteCur + 1 else byteCur) = cur
      split
      · exact leavesResume_next rfl
      · exact leavesResume_armPsBit _

theorem leavesResume_readRomProgress (s : State) :
    LeavesResume s.resumeAllowed (readRomProgress s) := by
  unfold readRomProgress
  dsimp only
  split
  · exact leavesResume_next rfl
  · split
    · exact leavesResume_next rfl
    · exact leavesResume_fault _ _

theorem searchSendDone_resumeAllowed (s : State) :
    (searchSendDone s).resumeAllowed = s.resumeAllowed := by
  unfold searchSendDone
  split <;> rfl

theorem searchRecvDone_resumeAllowed (b : Bool) (s : State) :
    (searchRecvDone b s).resumeAllowed = s.resumeAllowed := by
  unfold searchRecvDone
  split
  · rfl
  · split <;> rfl

theorem leavesResume_sendBitDone (s : State) : LeavesResume s.resumeAllowed (sendBitDone s) := by
  unfold sendBitDone
  split
  · exact leavesResume_armNext { s with stale := false }
  · split
    · exact leavesResume_next (searchSendDone_resumeAllowed s)
    · exact leavesResume_readRomProgress s
    · exact leavesResume_clientSendProgress s
    · exact leavesResume_fault _ _

theorem leavesResume_dispatchCommand (v : Byte) (s : State) :
    LeavesResume s.resumeAllowed (dispatchCommand v s) := by
  simp only [dispatchCommand, decode, decodeCommand]
  split_ifs <;> refine leavesResume_next ?_
  · rfl
  · split <;> rfl
  · rfl
  · rfl
  · rfl
  · split <;> rfl
  · rfl

theorem leavesResume_rise (s : State) : LeavesResume s.resumeAllowed (rise s) := by
  unfold rise classifyPulse resetAccepted
  split
  · exact leavesResume_next rfl
  · dsimp only
    split
    · refine leavesResume_next ?_
      split
      · rfl
      · split <;> rfl
    · exact leavesResume_next rfl

theorem leavesResume_startSlot (s : State) : LeavesResume s.resumeAllowed (startSlot s) := by
  unfold startSlot
  split
  case h_2 =>
    rw [scheduleResetCheck_eq]
    exact leavesResume_sendBitDone _
  all_goals exact leavesResume_next rfl

theorem leavesResume_fall (s : State) : LeavesResume s.resumeAllowed (fall s) := by
  unfold fall
  split
  · exact leavesResume_next rfl
  · dsimp only
    split
    · exact leavesResume_next rfl
    · exact leavesResume_startSlot _

/-! ### The one reaction that writes it: the eighth bit of the eighth byte of Match ROM -/

/-- From `s` to `t` a Match ROM has been completed, and the flag is what the compare says (R221). -/
def MatchCompleted (s t : State) : Prop :=
  s.fsm = .matchingRom ∧ s.rxByte = 7 ∧ s.rxBit = 7 ∧ s.stale = false ∧
    (t.resumeAllowed = true ↔ t.rxBuf = t.rom)

theorem matchCompare_resumeAllowed (s : State) :
    (matchCompare s).resumeAllowed = true ↔ (matchCompare s).rxBuf = (matchCompare s).rom := by
  unfold matchCompare
  split <;> simp_all

theorem matchByte_resumeAllowed {v : Byte} {s t : State} (h : matchByte v s = .next t) :
    t.resumeAllowed = s.resumeAllowed ∨
      (s.rxByte = 7 ∧ (t.resumeAllowed = true ↔ t.rxBuf = t.rom)) := by
  unfold matchByte at h
  dsimp only at h
  split at h
  next hroom =>
    split at h <;> cases h
    · exact .inl rfl
    next hlast => exact .inr ⟨by bv_omega, matchCompare_resumeAllowed _⟩
  · cases h

theorem accumulate_resumeAllowed {b : Bool} {s t : State} (h : accumulate b s = .next t) :
    t.resumeAllowed = s.resumeAllowed ∨
      (s.fsm = .matchingRom ∧ s.rxByte = 7 ∧ s.rxBit = 7 ∧
        (t.resumeAllowed = true ↔ t.rxBuf = t.rom)) := by
  unfold accumulate at h
  dsimp only at h
  split at h
  · cases h; exact .inl rfl
  next hlast =>
    have hbit : s.rxBit = 7 := by bv_omega
    unfold byteComplete at h
    dsimp only at h
    split at h
    · have hk := leavesResume_dispatchCommand _ _ t h
      exact .inl hk
    next hf =>
      rcases matchByte_resumeAllowed h with hk | ⟨hbyte, hcmp⟩
      · exact .inl hk
      · exact .inr ⟨hf, hbyte, hbit, hcmp⟩
    · cases h; exact .inl rfl
    all_goals cases h

theorem recvBitDone_resumeAllowed {b : Bool} {s t : State} (h : recvBitDone b false s = .next t) :
    t.resumeAllowed = s.resumeAllowed ∨ MatchCompleted s t := by
  unfold recvBitDone at h
  cases hst : s.stale with
  | true =>
    rw [hst] at h
    exact .inl (leavesResume_armNext { s with stale := false } t h)
  | false =>
    simp only [hst, Bool.false_eq_true, if_false] at h
    split at h
    · cases h; exact .inl (searchRecvDone_resumeAllowed b s)
    · split at h
      next hf =>
        rcases accumulate_resumeAllowed h with hk | ⟨hm, -⟩
        · exact .inl hk
        · cases hf.symm.trans hm
      · rcases accumulate_resumeAllowed h with hk | ⟨hm, hbyte, hbit, hcmp⟩
        · exact .inl hk
        · exact .inr ⟨hm, hbyte, hbit, hst, hcmp⟩

theorem sample_resumeAllowed {s t : State} (h : sample s = .next t) :
    t.resumeAllowed = s.resumeAllowed ∨ MatchCompleted s t := by
  unfold sample at h
  rw [scheduleResetCheck_eq] at h
  rcases recvBitDone_resumeAllowed h with hk | hm
  · exact .inl hk
  · exact .inr hm

theorem runCallback_resumeAllowed {cb : Callback} {s t : State} (h : runCallback cb s = .next t) :
    t.resumeAllowed = s.resumeAllowed ∨ (cb = .sample ∧ MatchCompleted s t) := by
  cases cb with
  | beginPresence => cases h; exact .inl rfl
  | endPresence => cases h; exact .inl rfl
  | sample => exact (sample_resumeAllowed h).imp_right fun hm => ⟨rfl, hm⟩
  | holdEnd =>
    simp only [runCallback, holdEnd, scheduleResetCheck_eq] at h
    have hk := leavesResume_sendBitDone _ t h
    exact .inl hk
  | resetCheck =>
    cases h
    unfold resetCheck
    split <;> exact .inl rfl

/-! ### What the client writes (R24, R25, R26, R38) -/

/-- The fields that only the client writes, but for `resume_allowed`. -/
def clientFields (s : State) := (s.rom, s.alarmed, s.recvCbEn, s.bitCbEn)

theorem Kept.clientFields {s t : State} (h : Kept s t) : clientFields t = clientFields s := by
  rw [Machine.clientFields, h.rom, h.alarmed, h.recvCbEn, h.bitCbEn]; rfl

/-- What the operation `i` may have written from `s` to `t`, field by field. -/
structure ClientWrites (i : Instr) (s t : State) : Prop where
  rom : t.rom = s.rom ∨ ∃ r e p, i = .beginOp r e p ∧ t.rom = identityOf r
  alarmed : t.alarmed = s.alarmed ∨ (∃ r e p, i = .beginOp r e p ∧ t.alarmed = false) ∨
    ∃ v, i = .alarmed v ∧ t.alarmed = v
  resumeAllowed : t.resumeAllowed = s.resumeAllowed ∨
    ∃ r e p, i = .beginOp r e p ∧ t.resumeAllowed = false
  recvCbEn : t.recvCbEn = s.recvCbEn ∨ i = .setRecvCb t.recvCbEn
  bitCbEn : t.bitCbEn = s.bitCbEn ∨ i = .setBitCb t.bitCbEn

theorem ClientWrites.of_same {i : Instr} {s t : State} (hc : clientFields t = clientFields s)
    (hr : t.resumeAllowed = s.resumeAllowed) : ClientWrites i s t := by
  simp only [clientFields, Prod.mk.injEq] at hc
  obtain ⟨hrom, halarmed, hrecv, hbit⟩ := hc
  exact ⟨.inl hrom, .inl halarmed, .inl hr, .inl hrecv, .inl hbit⟩

/-- The writers among the client operations. -/
theorem clientOperation_writes {req : ClientReq} {s t : State}
    (h : exec (decode (.client req)) s = .next t) : ClientWrites (decode (.client req)) s t := by
  have hend : clientFields (if s.enabled then tearDown s else s) = clientFields s ∧
      (if s.enabled then tearDown s else s).resumeAllowed = s.resumeAllowed := by
    split <;> exact ⟨rfl, rfl⟩
  rcases clientOperation_cases req s t h with ⟨rom, eighth, pin, hi, rfl⟩ | ⟨-, rfl⟩ |
    ⟨v, hi, rfl⟩ | ⟨v, hi, rfl⟩ | ⟨v, hi, rfl⟩ | ⟨-, new, hq⟩ | ⟨-, rfl⟩ | ⟨-, rfl⟩
  · obtain ⟨-, -, hrecv, hbit⟩ := by simpa only [clientFields, Prod.mk.injEq] using hend.1
    exact {
      rom := .inr ⟨rom, eighth, pin, hi, rfl⟩
      alarmed := .inr (.inl ⟨rom, eighth, pin, hi, rfl⟩)
      resumeAllowed := .inr ⟨rom, eighth, pin, hi, rfl⟩
      recvCbEn := .inl hrecv
      bitCbEn := .inl hbit }
  · exact .of_same hend.1 hend.2
  · exact ⟨.inl rfl, .inl rfl, .inl rfl, .inr hi, .inl rfl⟩
  · exact ⟨.inl rfl, .inl rfl, .inl rfl, .inl rfl, .inr hi⟩
  · exact ⟨.inl rfl, .inr (.inr ⟨v, hi, rfl⟩), .inl rfl, .inl rfl, .inl rfl⟩
  · obtain ⟨-, -, -, hresume, -⟩ := queueSend_fields new s t hq
    exact .of_same (keptOf_queueSend new s t hq).clientFields hresume
  · exact .of_same rfl rfl
  · exact .of_same rfl rfl

/-! ### The writers along a step -/

/-- Whatever a step is, the fields of the client and `resume_allowed` are as before, or a Match ROM has
been completed, or a client operation has run, which found them as they were. -/
theorem step_writers {s t : State} (h : step s = .next t) :
    (clientFields t = clientFields s ∧
      (t.resumeAllowed = s.resumeAllowed ∨
        (∃ d, nextEvent s = .timer ⟨d, .sample⟩) ∧ MatchCompleted s t)) ∨
    ∃ i, ClientTurn s i ∧ ClientWrites i s t := by
  rcases step_agents s _ h with ⟨-, hr⟩ | ⟨-, hf⟩ | ⟨-, -, -, hq⟩ | ⟨⟨d, cb⟩, k, -, -, hev, hc⟩ |
    ⟨l, n, rest, k, -, -, he⟩ | ⟨a, n, rest, later, k, hact, -, -, ha⟩
  · exact .inl ⟨(keptOf_rise _ t hr.symm).clientFields,
      .inl (leavesResume_rise { s with lineSeen := true } t hr.symm)⟩
  · exact .inl ⟨(keptOf_fall _ t hf.symm).clientFields,
      .inl (leavesResume_fall { s with lineSeen := false } t hf.symm)⟩
  · cases hq; exact .inl ⟨rfl, .inl rfl⟩
  · refine .inl ⟨(keptOf_runCallback cb _ t hc.symm).clientFields, ?_⟩
    rcases runCallback_resumeAllowed hc.symm with hk | ⟨rfl, hm⟩
    · exact .inl hk
    · exact .inr ⟨⟨d, hev⟩, hm⟩
  · cases he; exact .inl ⟨rfl, .inl rfl⟩
  · cases a with
    | operation req =>
      obtain ⟨hrom, halarmed, hresume, hrecv, hbit⟩ := clientOperation_writes ha.symm
      exact .inr ⟨_, ⟨req, hact, rfl⟩, hrom, halarmed, hresume, hrecv, hbit⟩
    | store addr v => cases ha; exact .inl ⟨rfl, .inl rfl⟩

/-- Settles O54: of the writers of a step only `begin` writes the identity. -/
theorem identityWrittenOnlyByBegin : Obligations.IdentityWrittenOnlyByBegin := by
  intro s t h hne
  rcases step_writers h with ⟨hc, -⟩ | ⟨i, hturn, hw⟩
  · exact absurd (congrArg Prod.fst hc) hne
  · obtain ⟨r, e, p, rfl, hrom⟩ := hw.rom.resolve_left hne
    exact ⟨r, e, p, hturn, hrom⟩

/-- Settles O55: the writers are those of a client operation, and the compare of a Match ROM. -/
theorem flagWriters : Obligations.FlagWriters := by
  intro s t h
  rcases step_writers h with ⟨hc, hresume⟩ | ⟨i, hturn, hw⟩
  · simp only [clientFields, Prod.mk.injEq] at hc
    obtain ⟨-, halarmed, hrecv, hbit⟩ := hc
    refine ⟨fun hne => absurd halarmed hne, fun hne => ?_, .inl hrecv, .inl hbit⟩
    obtain ⟨hev, hfsm, hbyte, hrx, hstale, hcmp⟩ := hresume.resolve_left hne
    exact .inr ⟨hfsm, hbyte, hrx, hstale, hev, hcmp⟩
  · refine ⟨fun hne => ?_, fun hne => ?_, hw.recvCbEn.imp_right fun hi => ?_,
      hw.bitCbEn.imp_right fun hi => ?_⟩
    · rcases hw.alarmed.resolve_left hne with ⟨r, e, p, rfl, hv⟩ | ⟨v, rfl, hv⟩
      · exact .inl ⟨r, e, p, hturn, hv⟩
      · exact .inr ⟨v, hturn, hv⟩
    · obtain ⟨r, e, p, rfl, hv⟩ := hw.resumeAllowed.resolve_left hne
      exact .inl ⟨r, e, p, hturn, hv⟩
    · rwa [← hi]
    · rwa [← hi]

/-! ### While disabled (R22, R324) -/

theorem Inv.disabledShape {s : State} (h : Inv s) (he : s.enabled = false) : DisabledShape s := by
  rcases inv_shapes h with hd | hw | hp | ha | hs | hh
  · exact hd
  · cases he.symm.trans hw.enabled
  · cases he.symm.trans hp.enabled
  · cases he.symm.trans ha.enabled
  · cases he.symm.trans hs.enabled
  · cases he.symm.trans hh.enabled

/-- A client operation on a disabled block neither drives the line nor notifies (R252, R260). -/
theorem clientOperation_silent {req : ClientReq} {s t : State} (he : s.enabled = false)
    (hd : s.driveLow = false) (h : exec (decode (.client req)) s = .next t) :
    t.driveLow = false ∧ t.out = s.out := by
  rcases clientOperation_cases req s t h with ⟨rom, eighth, pin, -, rfl⟩ | ⟨-, rfl⟩ |
    ⟨v, -, rfl⟩ | ⟨v, -, rfl⟩ | ⟨v, -, rfl⟩ | ⟨-, new, hq⟩ | ⟨-, rfl⟩ | ⟨-, rfl⟩
  · exact ⟨rfl, congrArg Env.out (endIfEnabled_toEnv s)⟩
  · simp [he, hd]
  · exact ⟨hd, rfl⟩
  · exact ⟨hd, rfl⟩
  · exact ⟨hd, rfl⟩
  · rw [queueSend_disabled new s he] at hq
    cases hq
    exact ⟨hd, rfl⟩
  · exact ⟨hd, rfl⟩
  · exact ⟨hd, rfl⟩

/-- Settles O58: a disabled block ignores both edges, has no timer armed, and answers requests with
nothing. -/
theorem disabledIsSilent : Obligations.DisabledIsSilent := by
  intro s t h he hstep
  have hd := h.disabledShape he
  refine ⟨hd.driveLow, ?_⟩
  have ignored (l : Bool) : edgeIgnored { s with lineSeen := l } = true := by simp [edgeIgnored, he]
  rcases step_agents s _ hstep with ⟨-, hr⟩ | ⟨-, hf⟩ | ⟨-, -, -, hq⟩ | ⟨e, k, -, ht, -, -⟩ |
    ⟨l, n, rest, k, -, -, hx⟩ | ⟨a, n, rest, later, k, hact, -, -, ha⟩
  · rw [(edge_of_ignored (ignored true)).1] at hr
    cases hr
    exact ⟨hd.driveLow, rfl, .inl rfl⟩
  · rw [(edge_of_ignored (ignored false)).2] at hf
    cases hf
    exact ⟨hd.driveLow, rfl, .inl rfl⟩
  · cases hq
    exact ⟨hd.driveLow, rfl, .inl rfl⟩
  · cases hd.timer.symm.trans ht
  · cases hx
    exact ⟨hd.driveLow, rfl, .inl rfl⟩
  · cases a with
    | operation req =>
      have hop : exec (decode (.client req))
        { s with now := n, inputs := rest, reactions := later, ties := k } = .next t := ha.symm
      obtain ⟨hdrive, hout⟩ := clientOperation_silent (by exact he) (by exact hd.driveLow) hop
      exact ⟨hdrive, hout, .inr ⟨_, req, hact, rfl⟩⟩
    | store addr v =>
      cases ha
      exact ⟨hd.driveLow, rfl, .inl rfl⟩

end Sys2Proof.Machine
end

section
/-! PROOFS, 20_memory.md: which event a step takes where several are at hand (O11, O14), and who writes the
client's memory (O56). -/

namespace Sys2Proof.Machine

/-! ### The order of the events (R71, R76, R77, R78) -/

/-- Settles O11: a due edge is the next event and settles no tie, so the step is that edge's. -/
theorem dueEdgeComesFirst : Obligations.DueEdgeComesFirst := fun s =>
  ⟨fun hrise => step_of_nextEvent s _ (nextEvent_of_edgeDue s true hrise),
    fun hfall => step_of_nextEvent s _ (nextEvent_of_edgeDue s false hfall)⟩

/-- Where the timer and the next input are tied, and no edge and no reaction goes before them, the free
value picks the event, and the tie counts as settled (R78). -/
theorem nextEvent_of_tied {s : State} {e : TimerEvent} {i : TimedInput} {rest : List TimedInput}
    (hl : s.line = s.lineSeen) (hn : NoReaction s) (ht : s.timer = some e) (hi : s.inputs = i :: rest)
    (htied : tied s e i = true) :
    nextEvent s = (if Config.timerFirst s.ties then .timer e else .input i rest) ∧
      tieSettled s = true := by
  have hr := (dueReaction_eq_none s).2 hn
  exact ⟨by rw [nextEvent_of_noReaction s hl hn]; simp [timedEvent, ht, hi, timerBefore, htied],
    by simp [tieSettled, hl, hr, ht, hi, htied]⟩

/-- A step that settles a tie is the step of its event on the state with the tie counted. -/
theorem step_of_tieSettled {s : State} {ev : Event} (h : nextEvent s = ev ∧ tieSettled s = true) :
    step s = runEvent ev { s with ties := s.ties + 1 } := by
  rw [step, advance, h.1, countTie, if_pos h.2]

/-- Settles O14: a due reaction is the next event, before any tie; without one the free value picks the
event of the tie, which finds the time at the common time stamp. -/
theorem tieTakesEitherOrder : Obligations.TieTakesEitherOrder := by
  intro s e i rest hl ht hi hnow hdead
  refine ⟨fun a later hr => step_of_nextEvent s _ (nextEvent_of_reactionDue s a later hr), fun hn => ?_⟩
  have htime : inputTime s i = i.time := Nat.max_eq_right hnow
  have htied : tied s e i = true := by simp [tied, htime, hdead]
  rw [step_of_tieSettled (nextEvent_of_tied hl hn ht hi htied)]
  split
  · change runCallback e.cb { s with timer := none, now := max s.now e.deadline, ties := s.ties + 1 } = _
    rw [hdead, Nat.max_eq_right hnow]
  · change applyInput i.what { s with now := inputTime s i, inputs := rest, ties := s.ties + 1 } = _
    rw [htime]

/-! ### The client's memory (R60, R63) -/

/-- No client operation stores: a send queues a reference into the memory, and the others do not touch it. -/
theorem clientOperation_tx {req : ClientReq} {s t : State}
    (h : exec (decode (.client req)) s = .next t) : t.tx = s.tx := by
  have hend : (if s.enabled then tearDown s else s).tx = s.tx :=
    congrArg Env.tx (endIfEnabled_toEnv s)
  rcases clientOperation_cases req s t h with ⟨rom, eighth, pin, -, rfl⟩ | ⟨-, rfl⟩ | ⟨v, -, rfl⟩ |
    ⟨v, -, rfl⟩ | ⟨v, -, rfl⟩ | ⟨-, new, hq⟩ | ⟨-, rfl⟩ | ⟨-, rfl⟩
  · exact hend
  · exact hend
  · rfl
  · rfl
  · rfl
  · exact (keptOf_queueSend new s t hq).tx
  · rfl
  · rfl

/-- What the client does leaves its memory as it is, unless it is a store (R63). -/
theorem applyAct_tx {a : ClientAct} {s t : State} (h : applyAct a s = .next t) :
    t.tx = s.tx ∨ ∃ addr v, a = .store addr v ∧ t.tx = Memory.write s.tx addr v := by
  cases a with
  | operation req => exact .inl (clientOperation_tx h)
  | store addr v => cases h; exact .inr ⟨addr, v, rfl, rfl⟩

/-- The only writer of the client's memory along a step is a store by the client. -/
theorem step_tx {s t : State} (h : step s = .next t) :
    t.tx = s.tx ∨
    ∃ addr v, nextClientAct s = some (.store addr v) ∧ t.tx = Memory.write s.tx addr v := by
  rcases step_agents s _ h with ⟨-, hr⟩ | ⟨-, hf⟩ | ⟨-, -, -, hq⟩ | ⟨e, k, -, -, -, hc⟩ |
    ⟨l, n, rest, k, -, -, he⟩ | ⟨a, n, rest, later, k, hact, -, -, ha⟩
  · exact .inl (keptOf_rise _ t hr.symm).tx
  · exact .inl (keptOf_fall _ t hf.symm).tx
  · cases hq; exact .inl rfl
  · exact .inl (keptOf_runCallback e.cb _ t hc.symm).tx
  · cases he; exact .inl rfl
  · rcases applyAct_tx ha.symm with hsame | ⟨addr, v, rfl, hstore⟩
    · exact .inl hsame
    · exact .inr ⟨addr, v, hact, hstore⟩

/-- Settles O56: a step leaves the memory as it is or is a store, after which the canonical form makes
every other byte read as before. -/
theorem blockNeverWritesTx : Obligations.BlockNeverWritesTx := by
  intro s t hwf h
  rcases step_tx h with hsame | ⟨addr, v, hact, hstore⟩
  · exact .inl fun a => by rw [hsame]
  · exact .inr ⟨addr, v, hact, fun a => by rw [hstore, memory_read_write s.tx addr a v hwf]⟩

end Sys2Proof.Machine
end

section
/-! PROOFS, 30_encoding.md: the decoder against the encoder (O1 to O4) and the byte against its time slots
(O5). -/

namespace Sys2Proof

/-! ### Well-formed operands (R100, R102) -/

theorem unknownCommand_wf_iff (v : Byte) :
    (Instr.unknownCommand v).WellFormed ↔ v ∉ romCommandBytes := by
  simp [Instr.WellFormed, Instr.wf]

theorem clientReserved_wf_iff (c : BitVec 4) : (Instr.clientReserved c).WellFormed ↔ 9 ≤ c.toNat :=
  decide_eq_true_iff

theorem mem_romCommandBytes (v : Byte) : v ∈ romCommandBytes ↔
    v = 0xF0 ∨ v = 0xEC ∨ v = 0x33 ∨ v = 0x55 ∨ v = 0xCC ∨ v = 0xA5 := by
  simp [romCommandBytes]

/-! ### Command bytes (R98, R100)

The six bytes are rows of table T-ROMCMD, decided one by one; every other byte falls through all of the
decoder's comparisons. -/

theorem decodeCommand_of_not_mem {v : Byte} (h : v ∉ romCommandBytes) :
    decodeCommand v = .unknownCommand v := by
  simp only [mem_romCommandBytes, not_or] at h
  obtain ⟨hsearch, hcond, hread, hmatch, hskip, hresume⟩ := h
  simp only [decodeCommand, if_neg, hsearch, hcond, hread, hmatch, hskip, hresume, not_false_eq_true]

theorem decodeCommand_wf (v : Byte) : (decodeCommand v).WellFormed := by
  by_cases h : v ∈ romCommandBytes
  · have hrows : ∀ w ∈ romCommandBytes, (decodeCommand w).WellFormed := by decide
    exact hrows v h
  · rw [decodeCommand_of_not_mem h]
    exact (unknownCommand_wf_iff v).2 h

/-- A command byte can be read back from what it decodes to. -/
theorem encode_decodeCommand (v : Byte) : encode (decodeCommand v) = .command v := by
  by_cases h : v ∈ romCommandBytes
  · have hrows : ∀ w ∈ romCommandBytes, encode (decodeCommand w) = .command w := by decide
    exact hrows v h
  · rw [decodeCommand_of_not_mem h]
    rfl

/-! ### Client codes (R102): an equation per row of table T-CLIENTOP -/

section
variable {r : ClientReq}

theorem decodeClient_begin (h : r.code = 0) : decodeClient r = .beginOp r.rom r.eighth r.pin := by
  simp [decodeClient, h]

theorem decodeClient_end (h : r.code = 1) : decodeClient r = .endOp := by
  simp [decodeClient, h]

theorem decodeClient_setRecvCb (h : r.code = 2) : decodeClient r = .setRecvCb r.flag := by
  simp [decodeClient, h]

theorem decodeClient_setBitCb (h : r.code = 3) : decodeClient r = .setBitCb r.flag := by
  simp [decodeClient, h]

theorem decodeClient_alarmed (h : r.code = 4) : decodeClient r = .alarmed r.flag := by
  simp [decodeClient, h]

theorem decodeClient_write (h : r.code = 5) : decodeClient r = .write r.buf r.len r.hasCb := by
  simp [decodeClient, h]

theorem decodeClient_writeBit (h : r.code = 6) :
    decodeClient r = .writeBit r.flag r.again r.hasCb := by
  simp [decodeClient, h]

theorem decodeClient_stopWrite (h : r.code = 7) : decodeClient r = .stopWrite := by
  simp [decodeClient, h]

theorem decodeClient_crc8 (h : r.code = 8) : decodeClient r = .crc8 r.bytes := by
  simp [decodeClient, h]

/-- A code from 9 on is none of the nine that the decoder compares with. -/
theorem decodeClient_reserved (h : 9 ≤ r.code.toNat) : decodeClient r = .clientReserved r.code := by
  have hne : ∀ k : BitVec 4, k.toNat < 9 → r.code ≠ k := by
    rintro k hk rfl
    omega
  simp (disch := decide) only [decodeClient, hne, if_false]

end

/-- The lanes give their operands whatever they hold; what falls through the nine codes is 9 or more. -/
theorem decodeClient_wf (r : ClientReq) : (decodeClient r).WellFormed := by
  unfold decodeClient
  split_ifs
  case neg =>
    rw [clientReserved_wf_iff]
    bv_omega
  all_goals rfl

/-! ### Decoding and encoding -/

/-- Settles O1, by the rows of the opcode table: an unknown byte and a reserved code need the operand
range that well-formedness gives; every other instruction decodes by its own row. -/
theorem decodeEncodeRoundTrip : Obligations.DecodeEncodeRoundTrip := by
  intro i hi
  cases i with
  | searchRom => rfl
  | condSearch => rfl
  | readRom => rfl
  | matchRom => rfl
  | skipRom => rfl
  | resume => rfl
  | unknownCommand v => exact decodeCommand_of_not_mem ((unknownCommand_wf_iff v).1 hi)
  | beginOp rom eighth pin => exact decodeClient_begin rfl
  | endOp => exact decodeClient_end rfl
  | setRecvCb en => exact decodeClient_setRecvCb rfl
  | setBitCb en => exact decodeClient_setBitCb rfl
  | alarmed v => exact decodeClient_alarmed rfl
  | write buf len hasCb => exact decodeClient_write rfl
  | writeBit value again hasCb => exact decodeClient_writeBit rfl
  | stopWrite => exact decodeClient_stopWrite rfl
  | crc8 bytes => exact decodeClient_crc8 rfl
  | clientReserved c => exact decodeClient_reserved ((clientReserved_wf_iff c).1 hi)

/-- Settles O2: both decoders answer well-formed instructions, and encoding undoes the decoding of a
command byte. -/
theorem decodedIsWellFormed : Obligations.DecodedIsWellFormed := by
  refine ⟨fun e => ?_, encode_decodeCommand⟩
  cases e with
  | command v => exact decodeCommand_wf v
  | client r => exact decodeClient_wf r

/-- The byte that encodes a well-formed command is the only one that decodes to it: the two round trips
together. -/
theorem decode_command_eq_iff {i : Instr} {b : Byte} (hi : i.WellFormed) (hb : encode i = .command b)
    (v : Byte) : decode (.command v) = i ↔ v = b := by
  constructor
  · rintro rfl
    exact Encoded.command.inj ((encode_decodeCommand v).symm.trans hb)
  · rintro rfl
    rw [← hb]
    exact decodeEncodeRoundTrip i hi

/-- A byte is an unknown command exactly if it is none of the six (R100). -/
theorem decode_command_eq_unknownCommand_iff (v : Byte) :
    decode (.command v) = .unknownCommand v ↔ v ∉ romCommandBytes := by
  constructor
  · intro h
    exact (unknownCommand_wf_iff v).1 (h ▸ decodeCommand_wf v)
  · exact decodeCommand_of_not_mem

/-- Settles O3: the six rows by the uniqueness of their bytes, the rest by the range of an unknown
command. -/
theorem commandBytesDecode : Obligations.CommandBytesDecode := by
  intro v
  refine ⟨decode_command_eq_iff rfl rfl v, decode_command_eq_iff rfl rfl v,
    decode_command_eq_iff rfl rfl v, decode_command_eq_iff rfl rfl v,
    decode_command_eq_iff rfl rfl v, decode_command_eq_iff rfl rfl v, ?_⟩
  rw [decode_command_eq_unknownCommand_iff, mem_romCommandBytes]
  simp only [not_or, ne_eq]

/-- Settles O4, by the equation of each row. -/
theorem clientCodesDecode : Obligations.ClientCodesDecode := fun _ =>
  ⟨decodeClient_begin, decodeClient_end, decodeClient_setRecvCb, decodeClient_setBitCb,
    decodeClient_alarmed, decodeClient_write, decodeClient_writeBit, decodeClient_stopWrite,
    decodeClient_crc8, decodeClient_reserved⟩

end Sys2Proof

namespace Sys2Proof.Machine

/-! ### A byte and its time slots (R96) -/

/-- Bit `n` joins an accumulator that holds nothing from bit `n` on: the bitwise or is the sum. -/
theorem addBit_ofNat {a : Nat} {n : BitVec 3} (h : a < 2 ^ n.toNat) (b : Bool) :
    addBit (BitVec.ofNat 8 a) b n = BitVec.ofNat 8 (a + 2 ^ n.toNat * b.toNat) := by
  have hbit : (BitVec.ofBool b).setWidth 8 <<< n.toNat = BitVec.ofNat 8 (2 ^ n.toNat * b.toNat) := by
    apply BitVec.eq_of_toNat_eq
    cases b <;> simp [Nat.shiftLeft_eq]
  have hor : a ||| 2 ^ n.toNat * b.toNat = a + 2 ^ n.toNat * b.toNat := by
    rw [Nat.or_comm, ← Nat.two_pow_add_eq_or_of_lt h, Nat.add_comm]
  rw [addBit, hbit, ← BitVec.ofNat_or, hor]

/-- Bit `i` of the byte is the `i`-th that arrived. -/
theorem byteOfBits_getElem (bs : List Bool) (i : Nat) (hi : i < 8) :
    (byteOfBits bs)[i] = bs.getD i false := by
  induction bs generalizing i with
  | nil => simp [byteOfBits]
  | cons b rest ih =>
    cases i with
    | zero => simp [byteOfBits]
    | succ i => simp [byteOfBits, ih i (Nat.lt_of_succ_lt hi)]

/-- Slot `k` carries bit `k`. -/
theorem wireBits_getElem? (v : Byte) (k : Fin 8) : (wireBits v)[k.val]? = some (v.getLsbD k.val) := by
  fin_cases k <;> rfl

/-- Settles O5: received, each bit is added at its own place, below which the earlier ones lie; sent, slot
`k` carries bit `k`, and bit `k` of the byte received again is that of slot `k`. -/
theorem byteIsItsEightSlots : Obligations.ByteIsItsEightSlots := by
  refine ⟨fun b0 b1 b2 b3 b4 b5 b6 b7 => ?_, fun v => ?_, fun v k => ?_, by decide⟩
  · have hbit : ∀ b : Bool, b.toNat ≤ 1 := Bool.toNat_le
    have := hbit b0; have := hbit b1; have := hbit b2; have := hbit b3
    have := hbit b4; have := hbit b5; have := hbit b6; have := hbit b7
    rw [show (0 : Byte) = BitVec.ofNat 8 0 from rfl, addBit_ofNat (n := 0) Nat.one_pos b0]
    iterate 7 rw [addBit_ofNat (by simp; omega)]
    simp
  · apply BitVec.eq_of_getElem_eq
    intro k hk
    rw [byteOfBits_getElem _ k hk, List.getD_eq_getElem?_getD, wireBits_getElem? v ⟨k, hk⟩,
      Option.getD_some, BitVec.getLsbD_eq_getElem]
  · rw [wireBits_getElem?, BitVec.getLsbD_ushiftRight, Nat.add_zero]

end Sys2Proof.Machine
end

section
/-! PROOFS, 40_crc8.md: the checksum is the bit-serial loop (O6), and its residue, linearity and table (O7). -/

namespace Sys2Proof.Machine

/-! ### The bit-serial loop (R121)

An iteration looks at its input only through bit 0, so a byte's iterations are a fold over the byte's bits. -/

/-- The loop's body on one data bit: R121's step, which `crcStep` takes with a byte's bit 0. -/
def crcBit (crc : Byte) (d : Bool) : Byte :=
  if crc.getLsbD 0 ^^ d then (crc >>> 1) ^^^ 0x8C else crc >>> 1

theorem crcStep_eq_crcBit (crc inb : Byte) : crcStep crc inb = crcBit crc (inb.getLsbD 0) := by
  rw [crcStep, crcBit, BitVec.getLsbD_xor]

theorem crcIter_eq_foldl_crcBit (k : Nat) (crc inb : Byte) :
    crcIter k crc inb = ((List.range k).map inb.getLsbD).foldl crcBit crc := by
  induction k generalizing crc inb with
  | zero => rfl
  | succ k ih =>
    have hbits : (inb >>> 1).getLsbD = inb.getLsbD ∘ Nat.succ :=
      funext fun i => by rw [BitVec.getLsbD_ushiftRight, Nat.add_comm, Function.comp_apply]
    rw [crcIter, ih, crcStep_eq_crcBit, hbits, List.range_succ_eq_map, List.map_cons, List.map_map,
      List.foldl_cons]

theorem crc8_eq_foldl_bits (m : List Byte) :
    crc8 m = (m.flatMap fun v => (List.range 8).map v.getLsbD).foldl crcBit 0 := by
  rw [List.foldl_flatMap, crc8]
  congr 1
  funext crc inb
  exact crcIter_eq_foldl_crcBit 8 crc inb

/-- Settles O6: the eight iterations of a byte are the fold over its bits, and the bytes' folds are one
fold over the whole sequence. -/
theorem crcIsTheBitSerialLoop : Obligations.CrcIsTheBitSerialLoop :=
  ⟨crc8_eq_foldl_bits, rfl, by decide, by decide⟩

/-! ### Linearity and the residue (R122) -/

/-- What a step adds to the shifted register: the constant of R121 if the two low bits differ. -/
def feedback (mix : Bool) : Byte := if mix then 0x8C else 0

theorem feedback_xor (x y : Bool) : feedback (x ^^ y) = feedback x ^^^ feedback y := by
  cases x <;> cases y <;> rfl

theorem crcStep_eq_xor_feedback (crc inb : Byte) :
    crcStep crc inb = (crc >>> 1) ^^^ feedback ((crc ^^^ inb).getLsbD 0) := by
  rw [crcStep, feedback]
  split
  · rfl
  · exact BitVec.xor_zero.symm

/-- A step is linear in the register and the input together, since the shift and the feedback are. -/
theorem crcStep_xor (c c' v v' : Byte) :
    crcStep (c ^^^ c') (v ^^^ v') = crcStep c v ^^^ crcStep c' v' := by
  have hmix : c ^^^ c' ^^^ (v ^^^ v') = (c ^^^ v) ^^^ (c' ^^^ v') := by ac_rfl
  simp only [crcStep_eq_xor_feedback, hmix, BitVec.getLsbD_xor, feedback_xor,
    BitVec.ushiftRight_xor_distrib]
  ac_rfl

theorem crcIter_xor (k : Nat) (c c' v v' : Byte) :
    crcIter k (c ^^^ c') (v ^^^ v') = crcIter k c v ^^^ crcIter k c' v' := by
  induction k generalizing c c' v v' with
  | zero => rfl
  | succ k ih => simp only [crcIter, BitVec.ushiftRight_xor_distrib, crcStep_xor, ih]

theorem crcByte_xor (c c' v v' : Byte) :
    crcByte (c ^^^ c') (v ^^^ v') = crcByte c v ^^^ crcByte c' v' :=
  crcIter_xor 8 c c' v v'

theorem foldl_crcByte_xor {a b : List Byte} (h : a.length = b.length) (c c' : Byte) :
    (List.zipWith (· ^^^ ·) a b).foldl crcByte (c ^^^ c') =
      a.foldl crcByte c ^^^ b.foldl crcByte c' := by
  induction a generalizing b c c' with
  | nil => rw [List.length_eq_zero_iff.1 h.symm]; rfl
  | cons v a ih =>
    cases b with
    | nil => cases h
    | cons w b =>
      rw [List.zipWith_cons_cons, List.foldl_cons, crcByte_xor, ih (Nat.succ.inj h)]
      rfl

/-- A register equal to its input never differs from it in bit 0: the feedback is not applied. -/
theorem crcIter_self (k : Nat) (c : Byte) : crcIter k c c = c >>> k := by
  induction k generalizing c with
  | zero => rfl
  | succ k ih =>
    have hstep : crcStep c c = c >>> 1 := by rw [crcStep, BitVec.xor_self]; rfl
    rw [crcIter, hstep, ih, ← BitVec.shiftRight_add, Nat.add_comm]

theorem crcByte_self (c : Byte) : crcByte c c = 0 := by
  rw [crcByte, crcIter_self]
  exact BitVec.ushiftRight_eq_zero (Nat.le_refl 8)

/-- The register and the byte enter only through their exclusive-or: `c` is `c ^^^ 0` and `v` is
`c ^^^ (c ^^^ v)`, and by linearity only the part `crcByte c c`, which is zero, splits off. -/
theorem crcByte_eq_crc8 (c v : Byte) : crcByte c v = crc8 [c ^^^ v] := by
  calc crcByte c v = crcByte (c ^^^ 0) (c ^^^ (c ^^^ v)) := by simp
    _ = crcByte c c ^^^ crcByte 0 (c ^^^ v) := crcByte_xor ..
    _ = crc8 [c ^^^ v] := by rw [crcByte_self]; exact BitVec.zero_xor

theorem crc8_append_self (m : List Byte) : crc8 (m ++ [crc8 m]) = 0 := by
  rw [crc8, List.foldl_append]
  exact crcByte_self (crc8 m)

theorem crc8_xor {a b : List Byte} (h : a.length = b.length) :
    crc8 (List.zipWith (· ^^^ ·) a b) = crc8 a ^^^ crc8 b :=
  foldl_crcByte_xor h 0 0

theorem crc8_eq_foldl_table (m : List Byte) :
    crc8 m = m.foldl (fun crc v => crc8 [crc ^^^ v]) 0 :=
  congrArg (List.foldl · 0 m) (funext₂ crcByte_eq_crc8)

/-- Settles O7: the check byte meets itself in the register, every byte's step is linear, and by both a
step is a table look-up. -/
theorem crcResidueLinearityAndTable : Obligations.CrcResidueLinearityAndTable :=
  ⟨crc8_append_self, fun _ _ => crc8_xor, crc8_eq_foldl_table⟩

end Sys2Proof.Machine
end

section
/-! PROOFS, 41_timer.md: the quantised delay (O8, O9), the firing (O10), and that the slot is never
overwritten (O60). -/

namespace Sys2Proof.Machine

/-! ### The quantised delay (R133, R330) -/

/-- A delay that rounds down to at most one tick takes exactly one: the floor. -/
theorem effectiveDelay_eq_floor {p : Params} {d : Nat} (h : (d - p.timerOverhead) / p.timerTick ≤ 1) :
    effectiveDelay p d = p.timerOverhead + p.timerTick := by
  rw [effectiveDelay, Nat.max_eq_left h, Nat.one_mul]

/-- From the floor on the delay is rounded down to whole ticks after the overhead. -/
theorem effectiveDelay_of_floor_le {p : Params} {d : Nat} (ht : 0 < p.timerTick)
    (h : p.timerOverhead + p.timerTick ≤ d) :
    effectiveDelay p d = p.timerOverhead + (d - p.timerOverhead) / p.timerTick * p.timerTick := by
  have hone : 1 ≤ (d - p.timerOverhead) / p.timerTick := (Nat.one_le_div_iff ht).2 (by omega)
  rw [effectiveDelay, Nat.max_eq_right hone]

theorem floor_le_effectiveDelay (p : Params) (d : Nat) :
    p.timerOverhead + p.timerTick ≤ effectiveDelay p d :=
  Nat.add_le_add_left (Nat.le_mul_of_pos_left _ (Nat.le_max_left 1 _)) _

/-- The default tick of one microsecond without overhead rounds nothing, and only lengthens the delay
0. -/
theorem effectiveDelay_standard (d : Nat) : effectiveDelay Params.standard d = max 1 d := by
  simp [effectiveDelay, Params.standard]

theorem effectiveDelay_zero (p : Params) : effectiveDelay p 0 = p.timerOverhead + p.timerTick :=
  effectiveDelay_eq_floor (by simp)

/-- Settles O8: the slot and its deadline are `timerSchedule` as defined, and the values are those of
`effectiveDelay` at and above its floor. -/
theorem scheduleArmsAtQuantisedDelay : Obligations.ScheduleArmsAtQuantisedDelay := by
  refine ⟨fun _ _ _ => rfl, effectiveDelay_standard, effectiveDelay_zero, fun p ht ho => ?_⟩
  have above (d : Nat) (hd : 7 ≤ d) : effectiveDelay p d = 3 + (d - 3) / 4 * 4 := by
    rw [effectiveDelay_of_floor_le (by omega) (by omega), ht, ho]
  refine ⟨above 25 (by omega), above 35 (by omega), above 300 (by omega), fun d hd => ?_⟩
  rw [effectiveDelay_eq_floor (by rw [ht, ho]; omega), ht, ho]

/-- Settles O9: the floor is one tick after the overhead, and from there on less than one tick is lost by
rounding down. -/
theorem delayHonouredWithinOneTick : Obligations.DelayHonouredWithinOneTick := by
  intro p d hp
  obtain ⟨-, -, -, -, -, -, -, ht⟩ := hp
  refine ⟨floor_le_effectiveDelay p d, fun hd => ?_⟩
  have hle := Nat.div_mul_le_self (d - p.timerOverhead) p.timerTick
  have hlt := Nat.lt_div_mul_add (a := d - p.timerOverhead) ht
  rw [effectiveDelay_of_floor_le ht hd]
  omega

/-! ### The firing (R134) -/

theorem TimerDue.now_le {s : State} {cb : Callback} {t : Nat} (h : TimerDue s cb t) : s.now ≤ t := by
  obtain ⟨-, -, -, hnow, -⟩ := h
  exact hnow

/-- Settles O10: the due timer is the next event, and its deadline is not past. -/
theorem timerFiresAtDeadlineCleared : Obligations.TimerFiresAtDeadlineCleared := by
  intro s cb t h
  calc step s = timerFire ⟨t, cb⟩ s := step_of_nextEvent s _ (nextEvent_of_timerDue s cb t h)
    _ = runCallback cb { s with timer := none, now := max s.now t } := rfl
    _ = runCallback cb { s with timer := none, now := t } := by rw [Nat.max_eq_right h.now_le]

/-! ### The slot is never overwritten (R136) -/

/-- Nothing has been scheduled from `s` to `t`: the slot is as it was, or disarmed. -/
def Unscheduled (s t : State) : Prop := t.timer = s.timer ∨ t.timer = none

theorem withoutResetCheck_same_or_none (slot : Option TimerEvent) :
    withoutResetCheck slot = slot ∨ withoutResetCheck slot = none := by
  rcases slot with _ | ⟨d, cb⟩
  · exact .inr rfl
  · rw [withoutResetCheck_some]
    split
    · exact .inr rfl
    · exact .inl rfl

/-- A rising edge outside WaitingForReset schedules nothing; it may cancel a reset check (R153). -/
theorem rise_unscheduled {s t : State} (hf : s.fsm ≠ .waitingForReset) (h : rise s = .next t) :
    Unscheduled s t := by
  cases hi : edgeIgnored s with
  | true =>
    rw [(edge_of_ignored hi).1] at h
    cases h
    exact .inl rfl
  | false =>
    rw [rise_eq_risen hi (.inl hf)] at h
    cases h
    exact withoutResetCheck_same_or_none s.timer

/-- A falling edge schedules only by starting the slot of an armed operation (R149 to R152). -/
theorem fall_unscheduled {s t : State} (h : fall s = .next t) :
    Unscheduled s t ∨ (s.op.armed = true ∧ s.fsm ≠ .assertingPresence) := by
  cases hi : edgeIgnored s with
  | true =>
    rw [(edge_of_ignored hi).2] at h
    cases h
    exact .inl (.inl rfl)
  | false =>
    have heard : s.fsm ≠ .assertingPresence := fun hf => by simp [edgeIgnored, hf] at hi
    by_cases hf : s.fsm = .waitingForReset
    · rw [fall_eq_fallen hi hf] at h
      cases h
      exact .inl (.inl rfl)
    · rw [fall_eq_startSlot hi hf] at h
      cases hop : s.op with
      | recvArmed | send1Armed | send0Armed => exact .inr ⟨rfl, heard⟩
      | idle | recvSampling | send0Holding =>
        simp only [startSlot, fallen, hop] at h
        cases h
        exact .inl (.inl rfl)

/-- No client operation schedules: `begin` and `end` disarm the timer, the others leave it. -/
theorem clientOperation_unscheduled {req : ClientReq} {s t : State}
    (h : exec (decode (.client req)) s = .next t) : Unscheduled s t := by
  rcases clientOperation_cases req s t h with ⟨rom, eighth, pin, -, rfl⟩ | ⟨-, rfl⟩ | ⟨v, -, rfl⟩ |
    ⟨v, -, rfl⟩ | ⟨v, -, rfl⟩ | ⟨-, new, hq⟩ | ⟨-, rfl⟩ | ⟨-, rfl⟩
  · exact .inr rfl
  · split
    · exact .inr rfl
    · exact .inl rfl
  · exact .inl rfl
  · exact .inl rfl
  · exact .inl rfl
  · obtain ⟨-, -, -, -, -, -, htimer, -⟩ := queueSend_fields new s t hq
    exact .inl htimer
  · exact .inl rfl
  · exact .inl rfl

theorem applyAct_unscheduled {a : ClientAct} {s t : State} (h : applyAct a s = .next t) :
    Unscheduled s t := by
  cases a with
  | operation req => exact clientOperation_unscheduled h
  | store addr v => cases h; exact .inl rfl

/-- In WaitingForReset no callback of a slot or of the presence pulse is awaited (R41 (d)). -/
theorem Inv.timerIdle_of_waiting {s : State} (h : Inv s) (hf : s.fsm = .waitingForReset) :
    TimerIdle s := by
  have hop : s.op = .idle := h.idle_iff.2 (.inr (.inl hf))
  exact h.timerIdle (by simp [hop]) (by simp [hop]) (by simp [hf])

/-- While an operation is only armed, no callback of a slot is awaited (R41 (d)). -/
theorem Inv.timerIdle_of_armed {s : State} (h : Inv s) (hop : s.op.armed = true)
    (hf : s.fsm ≠ .assertingPresence) : TimerIdle s :=
  h.timerIdle (fun ho => by simp [ho, BitOp.armed] at hop) (fun ho => by simp [ho, BitOp.armed] at hop) hf

/-- A due falling edge finds no reset check: the rise before it has cancelled that (R153). -/
theorem TimerIdle.timer_of_fallDue {s : State} (hidle : TimerIdle s) (h : Inv s)
    (he : EdgeDue s false) : s.timer = none := by
  obtain ⟨-, seenHigh⟩ := he
  rcases hidle with hnone | ⟨d, t0, -, hlow⟩
  · exact hnone
  · obtain ⟨seenLow, -⟩ := h.low_start t0 hlow
    cases seenLow.symm.trans seenHigh

/-- Every step schedules nothing, or schedules into an empty slot, or is one of the two that empty the
slot first: the firing, and the rising edge that cancels a reset check. -/
theorem step_schedules {s t : State} (h : Inv s) (hs : step s = .next t) :
    Unscheduled s t ∨ s.timer = none ∨ (∃ e, nextEvent s = .timer e ∧ s.timer = some e) ∨
    (EdgeDue s true ∧ ∃ d, s.timer = some ⟨d, .resetCheck⟩) := by
  rcases step_agents s _ hs with ⟨hdue, hr⟩ | ⟨hdue, hf⟩ | ⟨-, -, -, hq⟩ | ⟨e, k, -, ht, hev, -⟩ |
    ⟨l, n, rest, k, -, -, he⟩ | ⟨a, n, rest, later, k, -, -, -, ha⟩
  · by_cases hw : s.fsm = .waitingForReset
    · rcases h.timerIdle_of_waiting hw with hnone | ⟨d, t0, hcheck, -⟩
      · exact .inr (.inl hnone)
      · exact .inr (.inr (.inr ⟨hdue, d, hcheck⟩))
    · exact .inl (rise_unscheduled (s := { s with lineSeen := true }) hw hr.symm)
  · rcases fall_unscheduled (s := { s with lineSeen := false }) hf.symm with hk | ⟨hop, hp⟩
    · exact .inl hk
    · exact .inr (.inl ((h.timerIdle_of_armed hop hp).timer_of_fallDue h hdue))
  · cases hq; exact .inl (.inl rfl)
  · exact .inr (.inr (.inl ⟨e, hev, ht⟩))
  · cases he; exact .inl (.inl rfl)
  · have hk := applyAct_unscheduled ha.symm
    exact .inl hk

/-- Settles O60: `step_schedules`, for a step that has scheduled. -/
theorem timerNeverOverwritten : Obligations.TimerNeverOverwritten := by
  intro s t h hs hne harmed
  refine (step_schedules h hs).resolve_left ?_
  rintro (hsame | hnone)
  · exact hne hsame
  · simp [hnone] at harmed

end Sys2Proof.Machine
end

section
/-! PROOFS, 42_bit_transceiver.md: the edges (O16, O17, O19), the end of a slot of Read ROM (O18) and the
reset check (O22). -/

namespace Sys2Proof.Machine

/-! ### The edges (R148 to R153) -/

theorem edgeIgnored_iff (s : State) :
    edgeIgnored s = true ↔ s.enabled = false ∨ s.fsm = .assertingPresence := by
  simp [edgeIgnored]

/-- Settles O16: both edges are ignored, so that only the record of the last edge moves. -/
theorem ignoredEdgeChangesNothing : Obligations.IgnoredEdgeChangesNothing := by
  intro s level hdue hignored
  obtain ⟨onRise, onFall⟩ := dueEdgeComesFirst s
  have deaf : edgeIgnored { s with lineSeen := level } = true := (edgeIgnored_iff _).2 hignored
  obtain ⟨riseIgnored, fallIgnored⟩ := edge_of_ignored deaf
  cases level with
  | true => exact (onRise hdue).trans riseIgnored
  | false => exact (onFall hdue).trans fallIgnored

/-- The slot of a receive begins: the line is sampled `T_SAMPLE` later (R150). -/
theorem startSlot_recvArmed {s : State} (h : s.op = .recvArmed) :
    startSlot s = .next { s with
      op := .recvSampling, timer := some ⟨s.now + effectiveDelay s.cfg s.cfg.tSample, .sample⟩ } := by
  simp only [startSlot, h, timerSchedule]

/-- The slot of a 0 begins: the line is held low for `T_SEND0_HOLD` (R152). -/
theorem startSlot_send0Armed {s : State} (h : s.op = .send0Armed) :
    startSlot s = .next { s with
      driveLow := true, op := .send0Holding
      timer := some ⟨s.now + effectiveDelay s.cfg s.cfg.tSend0Hold, .holdEnd⟩ } := by
  simp only [startSlot, h, timerSchedule]

/-- Where no operation is armed, a falling edge starts none (R159). -/
theorem startSlot_of_not_armed {s : State} (h : s.op.armed = false) : startSlot s = .next s := by
  cases hop : s.op with
  | idle | recvSampling | send0Holding => simp only [startSlot, hop]
  | recvArmed | send1Armed | send0Armed => simp [BitOp.armed, hop] at h

/-- Settles O17: the fall is recorded, and outside WaitingForReset the slot of the operation starts. -/
theorem fallingEdge : Obligations.FallingEdge := by
  intro s hdue henabled hpresence seen
  have heard : edgeIgnored { s with lineSeen := false } = false := edgeIgnored_eq_false henabled hpresence
  have step_eq : step s = fall { s with lineSeen := false } := (dueEdgeComesFirst s).2 hdue
  have slot (hw : s.fsm ≠ .waitingForReset) : step s = startSlot seen :=
    step_eq.trans (fall_eq_startSlot heard hw)
  refine ⟨fun hw => step_eq.trans (fall_eq_fallen heard hw),
    fun hw hop => (slot hw).trans (startSlot_recvArmed hop),
    fun hw hop => (slot hw).trans (startSlot_send0Armed hop),
    fun hw hop => (slot hw).trans (startSlot_of_not_armed ?_)⟩
  change s.op.armed = false
  rcases hop with hop | hop | hop <;> rw [hop] <;> rfl

/-- A rising edge keeps whatever is armed besides a reset check (R153). -/
theorem withoutResetCheck_of_ne {slot : Option TimerEvent}
    (h : ∀ d, slot ≠ some ⟨d, .resetCheck⟩) : withoutResetCheck slot = slot := by
  rcases slot with _ | ⟨d, cb⟩
  · rfl
  · have hcb : cb ≠ .resetCheck := fun hcb => h d (by rw [hcb])
    rw [withoutResetCheck_some, if_neg hcb]

/-- Settles O19: the step is `risen`, whose timer is disarmed or as before. -/
theorem risingEdgeCancelsResetCheck : Obligations.RisingEdgeCancelsResetCheck := by
  intro s hdue henabled hpresence hw
  have heard : edgeIgnored { s with lineSeen := true } = false := edgeIgnored_eq_false henabled hpresence
  have step_eq : step s = .next (risen { s with lineSeen := true }) :=
    ((dueEdgeComesFirst s).1 hdue).trans (rise_eq_risen heard (.inl hw))
  simp only [step_eq, risen]
  refine ⟨fun ⟨d, hcheck⟩ => ?_, fun hother => ?_⟩
  · rw [hcheck, withoutResetCheck_some, if_pos rfl]
  · rw [withoutResetCheck_of_ne hother]

/-! ### The end of a slot of Read ROM (R151, R155, R223) -/

/-- A slot that ends leaves alone what says whose bit it was (R189), the ROM and its cursor. -/
theorem SlotSent.same {s done : State} (h : SlotSent s done) :
    done.stale = s.stale ∧ done.fsm = s.fsm ∧ done.txSrc = s.txSrc ∧ done.txCur = s.txCur ∧
      done.rom = s.rom := by
  rcases h with ⟨t, -, rfl⟩ | ⟨-, -, -, rfl⟩
  · exact ⟨rfl, rfl, rfl, rfl, rfl⟩
  · exact ⟨rfl, rfl, rfl, rfl, rfl⟩

/-- The bit of Read ROM belongs to the ROM's own send (R189). -/
theorem sendBitDone_rom {s : State} (hstale : s.stale = false) (hfsm : s.fsm = .sendingBytes)
    (hsrc : s.txSrc = some .rom) : sendBitDone s = readRomProgress s := by
  simp [sendBitDone, hstale, hfsm, hsrc]

theorem romBit_congr {s t : State} (h : t.rom = s.rom) (n : BitVec 6) : romBit n t = romBit n s := by
  rw [romBit, romBit, h]

/-- Before the last ROM bit the next one is armed (R223). -/
theorem readRomProgress_of_lt {s : State} (h : s.txCur.toNat < 63) :
    readRomProgress s =
      .next (armSend (romBit (BitVec.ofNat 6 (s.txCur.toNat + 1)) s) { s with txCur := s.txCur + 1 }) := by
  have hne : s.txCur + 1 ≠ 64 := by bv_omega
  have hlt : (s.txCur + 1).toNat < 64 := by bv_omega
  have hbit : (s.txCur + 1).setWidth 6 = BitVec.ofNat 6 (s.txCur.toNat + 1) := by bv_omega
  simp only [readRomProgress]
  rw [if_neg hne, if_pos hlt, hbit]
  rfl

/-- After the last ROM bit the application byte loop is entered (R223, R230). -/
theorem readRomProgress_last {s : State} (h : s.txCur = 63) :
    readRomProgress s = .next (enterAppLoop { s with txCur := 64 }) := by
  simp [readRomProgress, h]

/-- Settles O18: the completed slot leads to the progress of Read ROM, at its cursor. -/
theorem sendOneOfReadRom : Obligations.SendOneOfReadRom := by
  intro s done hsent hstale hfsm hsrc
  obtain ⟨sameStale, sameFsm, sameSrc, sameCur, sameRom⟩ := hsent.same
  have step_eq : step s = readRomProgress { done with op := .idle } := calc
    step s = sendBitDone { done with op := .idle } :=
      step_of_slotSent s done hsent (by simp [hfsm]) (by simp [hfsm])
    _ = readRomProgress { done with op := .idle } :=
      sendBitDone_rom (sameStale.trans hstale) (sameFsm.trans hfsm) (sameSrc.trans hsrc)
  refine ⟨fun hcur => ?_, fun hcur => step_eq.trans (readRomProgress_last (sameCur.trans hcur))⟩
  rw [← sameCur] at hcur ⊢
  rw [step_eq, readRomProgress_of_lt (s := { done with op := .idle }) hcur,
    romBit_congr (t := { done with op := .idle }) sameRom]
  rfl

/-! ### The reset check (R157) -/

/-- The reset check in a transaction with the line low (R157, R207). -/
theorem resetCheck_of_low {s : State} (hl : s.line = false) (hw : s.fsm ≠ .waitingForReset) :
    resetCheck s = backToWaiting s (cancelNotice s) :=
  (if_pos ⟨hl, hw⟩).trans (enterWFR_eq s)

/-- The reset check finds the line high, or no transaction to abandon (R157). -/
theorem resetCheck_of_high_or_waiting {s : State} (h : s.line = true ∨ s.fsm = .waitingForReset) :
    resetCheck s = s :=
  if_neg fun ⟨hl, hw⟩ => h.elim (fun hhigh => by simp [hl] at hhigh) hw

/-- Settles O22: the check runs with its slot cleared, at its deadline. -/
theorem resetCheckAbandonsTransaction : Obligations.ResetCheckAbandonsTransaction := by
  intro s t hdue fired
  have step_eq : step s = .next (resetCheck fired) := timerFiresAtDeadlineCleared s .resetCheck t hdue
  exact ⟨fun hl hw => step_eq.trans (congrArg _ (resetCheck_of_low (s := fired) hl hw)),
    fun h => step_eq.trans (congrArg _ (resetCheck_of_high_or_waiting (s := fired) h))⟩

end Sys2Proof.Machine
end

section
/-! PROOFS, 43_byte_layer.md: the receive of one of the first seven bits of a byte (O23), the dropped
completion of a cancelled owner's operation (O25) and the progress of a client send (O30). -/

namespace Sys2Proof.Machine

/-! ### Receiving a bit (R182, R190, R231) -/

/-- What the owner of a receive finds when its Sample at time `t` hands it the bit (R154, R156). -/
def sampled (s : State) (t : Nat) : State := { s with now := t, timer := checkAt s t, op := .idle }

/-- A due Sample hands the level of the line to the owner of the receive (R154). -/
theorem step_of_sample_sampled {s : State} {t : Nat} (h : TimerDue s .sample t) :
    step s = recvBitDone s.line false (sampled s t) :=
  step_of_sample s t h

/-- The bit joins the accumulator at its place (R182). -/
theorem addBit_eq (acc : Byte) (b : Bool) (n : BitVec 3) :
    addBit acc b n = acc ||| ((if b then (1 : Byte) else 0) <<< n.toNat) := by
  cases b <;> rfl

/-- One of the first seven bits of a byte is added, and the next receive armed (R182). -/
theorem accumulate_of_lt {s : State} (h : s.rxBit.toNat < 7) (b : Bool) :
    accumulate b s =
      .next (armRecv { s with rxAcc := addBit s.rxAcc b s.rxBit, rxBit := s.rxBit + 1 }) := by
  simp only [accumulate, if_pos h]

/-- A received bit is added to its byte, once it has been notified if the byte is an application byte
(R190, R231). -/
theorem recvBitDone_receiving {s : State} (hstale : s.stale = false)
    (hfsm : s.fsm = .receivingCommand ∨ s.fsm = .matchingRom ∨ s.fsm = .receivingApplicationByte)
    (b : Bool) :
    recvBitDone b false s = accumulate b { s with
      out := s.out ++ (if s.fsm = .receivingApplicationByte then bitNotice s b else []) } := by
  rcases hfsm with command | matching | application
  · simp [recvBitDone, hstale, command]
  · simp [recvBitDone, hstale, matching]
  · rw [if_pos application, ← notifyBit_record]
    simp [recvBitDone, hstale, application]

/-- Settles O23: the Sample hands the bit to its owner, who notifies it if it is an application bit, and
adds it. -/
theorem sampleOfApplicationBit : Obligations.SampleOfApplicationBit := by
  intro s t hdue hfsm hstale hbit
  rw [step_of_sample_sampled hdue, recvBitDone_receiving (s := sampled s t) hstale hfsm,
    accumulate_of_lt, addBit_eq]
  · rfl
  · exact hbit

/-! ### The next bit of a client send (R185) -/

/-- The bit of a send whose cursor is within its buffer. -/
theorem psBit_eq_payloadBit {p : PendingSend} (h : p.InRange) (s : State) :
    psBit p s = some (payloadBit s p.payload) := by
  obtain ⟨payload, hasCb⟩ := p
  cases payload with
  | bit value again => rfl
  | bytes buf len byteCur bitCur => simp [psBit, payloadBit, memRead, h buf len byteCur bitCur rfl]

/-- The bit at the cursor is armed. -/
theorem armPsBit_payloadBit {s : State} {p : PendingSend} (hps : s.ps = some p) (h : p.InRange) :
    armPsBit s = .next (armSend (payloadBit s p.payload) s) := by
  simp only [armPsBit, hps, psBit_eq_payloadBit h]

/-! ### Dropping a completion (R188) -/

/-- A stale receive is dropped, whatever was sampled. -/
theorem recvBitDone_stale {s : State} (h : s.stale = true) (b err : Bool) :
    recvBitDone b err s = armNext { s with stale := false } :=
  if_pos h

/-- A stale send is dropped. -/
theorem sendBitDone_stale {s : State} (h : s.stale = true) :
    sendBitDone s = armNext { s with stale := false } :=
  if_pos h

/-- Where no client send has taken over, reception is armed. -/
theorem armNext_application {s : State} (h : s.fsm = .receivingApplicationByte) :
    armNext s = .next (armRecv s) :=
  if_neg (by simp [h])

/-- A client send that has taken over puts its bit in the next slot. -/
theorem armNext_client {s : State} {p : PendingSend} (hfsm : s.fsm = .sendingBytes)
    (hsrc : s.txSrc = some .client) (hps : s.ps = some p) (hp : p.InRange) :
    armNext s = .next (armSend (payloadBit s p.payload) s) :=
  (if_pos ⟨hfsm, hsrc⟩).trans (armPsBit_payloadBit hps hp)

/-- The Sample of a stale receive (R154, R188). -/
theorem step_of_stale_sample {s : State} {t : Nat} (hstale : s.stale = true)
    (hdue : TimerDue s .sample t) :
    step s = armNext { sampled s t with stale := false } :=
  (step_of_sample_sampled hdue).trans (recvBitDone_stale (s := sampled s t) hstale _ _)

/-- The HoldEnd of a stale send of 0, which releases the line all the same (R155, R188). -/
theorem step_of_stale_holdEnd {s : State} {t : Nat} (hstale : s.stale = true)
    (hdue : TimerDue s .holdEnd t) (hpresence : s.fsm ≠ .assertingPresence)
    (hwaiting : s.fsm ≠ .waitingForReset) :
    step s = armNext { s with
      now := t, driveLow := false, timer := checkAt s t, op := .idle, stale := false } :=
  (step_of_slotSent s _ (.inl ⟨t, hdue, rfl⟩) hpresence hwaiting).trans (sendBitDone_stale hstale)

/-- Settles O25: either completion comes down to `armNext`, which asks only who owns the next slot. -/
theorem staleCompletionIsDropped : Obligations.StaleCompletionIsDropped := by
  intro s t hstale dropped
  refine ⟨fun hfsm => ⟨fun hdue => ?_, fun hdue => ?_⟩,
    fun p hfsm hsrc hps hp => ⟨fun hdue => ?_, fun hdue => ?_⟩⟩
  · exact (step_of_stale_sample hstale hdue).trans (armNext_application hfsm)
  · exact (step_of_stale_holdEnd hstale hdue (by simp [hfsm]) (by simp [hfsm])).trans
      (armNext_application hfsm)
  · exact (step_of_stale_sample hstale hdue).trans (armNext_client hfsm hsrc hps hp)
  · exact (step_of_stale_holdEnd hstale hdue (by simp [hfsm]) (by simp [hfsm])).trans
      (armNext_client hfsm hsrc hps hp)

/-! ### The progress of a client send (R186, R187, R189) -/

/-- The bit of a client send belongs to that send (R189). -/
theorem sendBitDone_client {s : State} (hstale : s.stale = false) (hfsm : s.fsm = .sendingBytes)
    (hsrc : s.txSrc = some .client) : sendBitDone s = clientSendProgress s := by
  simp [sendBitDone, hstale, hfsm, hsrc]

/-- The completion of a send, as one record: `SendDone(0)` if it has a callback, then the application
byte loop at bit 0 of a fresh byte (R187). -/
theorem sendComplete_eq (s : State) (p : PendingSend) (h : s.ps = some p) :
    sendComplete s = inFreshByte { s with
      ps := none, out := s.out ++ (if p.hasCb then [⟨s.now, .sendDone false⟩] else []) } := by
  simp only [sendComplete, enterAppLoop_eq, notifySendDone, emitIf_record, pendingHasCb, h]

/-- A slot that ends leaves alone the send, the client's memory and the notifications. -/
theorem SlotSent.sameSend {s done : State} (h : SlotSent s done) :
    done.ps = s.ps ∧ done.tx = s.tx ∧ done.out = s.out := by
  rcases h with ⟨t, -, rfl⟩ | ⟨-, -, -, rfl⟩
  · exact ⟨rfl, rfl, rfl⟩
  · exact ⟨rfl, rfl, rfl⟩

/-- The completed slot of a client send leads to the progress of that send. -/
theorem step_of_clientSlotSent {s done : State} (h : SlotSent s done) (hfsm : s.fsm = .sendingBytes)
    (hsrc : s.txSrc = some .client) (hstale : s.stale = false) :
    step s = clientSendProgress { done with op := .idle } := by
  obtain ⟨sameStale, sameFsm, sameSrc, -, -⟩ := h.same
  calc
    step s = sendBitDone { done with op := .idle } :=
      step_of_slotSent s done h (by simp [hfsm]) (by simp [hfsm])
    _ = clientSendProgress { done with op := .idle } :=
      sendBitDone_client (sameStale.trans hstale) (sameFsm.trans hfsm) (sameSrc.trans hsrc)

section ByteSend

variable {s : State} {buf len byteCur next : Nat} {bitCur : BitVec 3} {hasCb : Bool}

/-- Of a byte send whose cursor stays within the buffer the bit at the new cursor is armed (R186). -/
theorem clientSendProgress_bytes_of_lt (hps : s.ps = some ⟨.bytes buf len byteCur bitCur, hasCb⟩)
    (hnext : (if bitCur = 7 then byteCur + 1 else byteCur) = next) (hlt : next < len) :
    clientSendProgress s =
      .next (armSend ((Memory.read s.tx (buf + next)).getLsbD (bitCur + 1).toNat)
        { s with ps := some ⟨.bytes buf len next (bitCur + 1), hasCb⟩ }) := by
  have inRange : PendingSend.InRange ⟨.bytes buf len next (bitCur + 1), hasCb⟩ := by
    rintro _ _ _ _ ⟨⟩
    exact hlt
  simp only [clientSendProgress, hps, hnext]
  rw [if_neg hlt.ne, armPsBit_payloadBit rfl inRange]
  rfl

/-- A byte send whose cursor reaches the end of the buffer completes (R186, R187). -/
theorem clientSendProgress_bytes_last (hps : s.ps = some ⟨.bytes buf len byteCur bitCur, hasCb⟩)
    (hnext : (if bitCur = 7 then byteCur + 1 else byteCur) = len) :
    clientSendProgress s = .next (inFreshByte { s with
      ps := none, out := s.out ++ (if hasCb then [⟨s.now, .sendDone false⟩] else []) }) := by
  simp only [clientSendProgress, hps, hnext, if_pos]
  rw [sendComplete_eq _ _ rfl]

end ByteSend

/-- A repeating bit is armed again (R186). -/
theorem clientSendProgress_bit_again {s : State} {value hasCb : Bool}
    (hps : s.ps = some ⟨.bit value true, hasCb⟩) :
    clientSendProgress s = .next (armSend value s) := by
  simp only [clientSendProgress, hps, if_true]

/-- A single bit is the whole of its send (R186, R187). -/
theorem clientSendProgress_bit_once {s : State} {value hasCb : Bool}
    (hps : s.ps = some ⟨.bit value false, hasCb⟩) :
    clientSendProgress s = .next (inFreshByte { s with
      ps := none, out := s.out ++ (if hasCb then [⟨s.now, .sendDone false⟩] else []) }) := by
  simp only [clientSendProgress, hps, Bool.false_eq_true, if_false]
  rw [sendComplete_eq _ _ hps]

/-- Settles O30: the completed slot leads to the progress of the client send, by its payload and by where
its cursor moves. -/
theorem clientByteSendAdvances : Obligations.ClientByteSendAdvances := by
  intro s done hasCb hsent hfsm hsrc hstale completed
  obtain ⟨samePs, sameTx, sameOut⟩ := hsent.sameSend
  have step_eq := step_of_clientSlotSent hsent hfsm hsrc hstale
  simp only [completed, ← samePs, ← sameTx, ← sameOut]
  refine ⟨fun buf len byteCur bitCur hps hcur =>
      ⟨fun hbit => ?_, fun hbit hlt => ?_, fun hbit hlen => ?_⟩,
    fun value again hps => ⟨fun hagain => ?_, fun hagain => ?_⟩⟩
  · have notLast : bitCur ≠ 7 := by bv_omega
    have nextBit : (bitCur + 1).toNat = bitCur.toNat + 1 := by bv_omega
    rw [← nextBit]
    exact step_eq.trans (clientSendProgress_bytes_of_lt hps (if_neg notLast) hcur)
  · subst hbit
    exact step_eq.trans (clientSendProgress_bytes_of_lt hps (if_pos rfl) hlt)
  · exact step_eq.trans (clientSendProgress_bytes_last hps ((if_pos hbit).trans hlen))
  · subst hagain
    exact step_eq.trans (clientSendProgress_bit_again hps)
  · subst hagain
    exact step_eq.trans (clientSendProgress_bit_once hps)

end Sys2Proof.Machine
end

section
/-! PROOFS, 44_protocol_fsm.md: what each ROM command answers (O31 to O37), and what every one of them leaves
unchanged (O47). -/

namespace Sys2Proof.Machine

/-! ### The records that the commands come down to -/

/-- Bit 0 of the ROM is bit 0 of its first byte (R61). -/
theorem romBit_zero (s : State) : romBit 0 s = s.rom.b0.getLsbD 0 := rfl

/-- The first slot of a search, as one record (R226). -/
theorem startSearch_eq (s : State) : startSearch s = { s with
    fsm := .searchingRom, searchIdx := 0, searchPhase := .sendTrue
    op := sendOp (s.rom.b0.getLsbD 0), curBit := some (s.rom.b0.getLsbD 0) } := by
  rw [startSearch, armSend_eq, romBit_zero]

/-- A receive, as one record (R181). -/
theorem startReceive_eq (n : BitVec 4) (s : State) : startReceive n s = { s with
    rxLen := n, rxByte := 0, rxBit := 0, rxAcc := 0, op := .recvArmed, curBit := none } := rfl

/-! ### The result of each command (R211 to R217) -/

/-- Settles O31: SEARCH_ROM is `startSearch`, whatever the state. -/
theorem searchRomResult : Obligations.SearchRomResult :=
  fun s => congrArg Host.Outcome.next (startSearch_eq s)

/-- Settles O32: the flag chooses between `startSearch` and leaving the transaction. -/
theorem condSearchResult : Obligations.CondSearchResult := by
  intro s
  refine ⟨fun halarmed => ?_, fun hquiet => ?_⟩
  · simp only [exec, execCondSearch, halarmed, if_true, startSearch_eq]
  · simp only [exec, execCondSearch, hquiet, Bool.false_eq_true, if_false, enterWFR_eq]

/-- Settles O33: MATCH_ROM has its own row in the decoder, and is a receive of eight bytes. -/
theorem matchRomResult : Obligations.MatchRomResult :=
  ⟨decodeEncodeRoundTrip .matchRom rfl,
    fun s => congrArg Host.Outcome.next (startReceive_eq 8 { s with fsm := .matchingRom })⟩

/-- Settles O34: SKIP_ROM has its own row in the decoder, and is `enterAppLoop`. -/
theorem skipRomResult : Obligations.SkipRomResult :=
  ⟨decodeEncodeRoundTrip .skipRom rfl, fun s => congrArg Host.Outcome.next (enterAppLoop_eq s)⟩

/-- Settles O35: READ_ROM arms the ROM bit at its cursor, which it has put to 0. -/
theorem readRomResult : Obligations.ReadRomResult :=
  fun s => congrArg Host.Outcome.next
    (armSend_eq (romBit 0 s) { s with fsm := .sendingBytes, txSrc := some .rom, txCur := 0 })

/-- Settles O36: the flag chooses between the application byte loop and leaving the transaction. -/
theorem resumeResult : Obligations.ResumeResult := by
  intro s
  refine ⟨fun hallowed => ?_, fun hforbidden => ?_⟩
  · simp only [exec, execResume, hallowed, if_true, enterAppLoop_eq]
  · simp only [exec, execResume, hforbidden, Bool.false_eq_true, if_false, enterWFR_eq]

/-- Settles O37: an unknown command raises its fault, and the error path takes nothing from the fault but
its code. -/
theorem unknownCommandTakesErrorPath : Obligations.UnknownCommandTakesErrorPath := fun s _ =>
  ⟨congrArg Host.Outcome.next (raiseError_eq .unknownCommand s), raiseError_eq .resetTooLong s,
    raiseError_eq .bitTransferError s⟩

/-! ### What every command leaves unchanged (R207 to R217) -/

/-- A row of table T-ROMCMD, or the row of all other bytes (R98, R100). -/
def IsRomCommand (i : Instr) : Prop :=
  i = .searchRom ∨ i = .condSearch ∨ i = .readRom ∨ i = .matchRom ∨ i = .skipRom ∨ i = .resume ∨
    ∃ v, i = .unknownCommand v

theorem isRomCommand_decodeCommand (v : Byte) : IsRomCommand (decodeCommand v) := by
  unfold decodeCommand IsRomCommand
  split_ifs <;> simp

/-- What a command may do: start a search, send the ROM, receive for a match, enter the application byte
loop, or leave the transaction, silently or by the error path. -/
inductive RomCommandDoes (i : Instr) (s : State) : State → Prop where
  | search (hi : i = .searchRom ∨ i = .condSearch) : RomCommandDoes i s (startSearch s)
  | sendRom (hi : i = .readRom) : RomCommandDoes i s
      (armSend (romBit 0 s) { s with fsm := .sendingBytes, txSrc := some .rom, txCur := 0 })
  | matchRom : RomCommandDoes i s (startReceive 8 { s with fsm := .matchingRom })
  | loop : RomCommandDoes i s (enterAppLoop s)
  | leave : RomCommandDoes i s (enterWFR s)
  | error : RomCommandDoes i s (raiseError .unknownCommand s)

/-- Everything a ROM command can do, by the command. -/
theorem romCommand_does {i : Instr} {s t : State} (hi : IsRomCommand i) (h : exec i s = .next t) :
    RomCommandDoes i s t := by
  rcases hi with rfl | rfl | rfl | rfl | rfl | rfl | ⟨v, rfl⟩ <;> cases h
  · exact .search (.inl rfl)
  · split
    · exact .search (.inr rfl)
    · exact .leave
  · exact .sendRom rfl
  · exact .matchRom
  · exact .loop
  · split
    · exact .loop
    · exact .leave
  · exact .error

section
variable {i : Instr} {s t : State}

theorem RomCommandDoes.kept (h : RomCommandDoes i s t) : Kept s t := by
  cases h with
  | search => exact kept_startSearch s
  | sendRom => exact .of_fields rfl rfl rfl rfl rfl rfl
  | matchRom => exact .of_fields rfl rfl rfl rfl rfl rfl
  | loop => exact kept_enterAppLoop s
  | leave => exact kept_enterWFR s
  | error => exact kept_raiseError _ s

/-- No command writes the presence phase, `resume_allowed`, the match buffer or the edge record. -/
theorem RomCommandDoes.fields (h : RomCommandDoes i s t) :
    t.apPhase = s.apPhase ∧ t.resumeAllowed = s.resumeAllowed ∧ t.rxBuf = s.rxBuf ∧
      t.lowStart = s.lowStart := by
  cases h <;> exact ⟨rfl, rfl, rfl, rfl⟩

/-- Only the two searches write the round and its slot. -/
theorem RomCommandDoes.search_fields (h : RomCommandDoes i s t) (hsearch : i ≠ .searchRom)
    (hcond : i ≠ .condSearch) : t.searchPhase = s.searchPhase ∧ t.searchIdx = s.searchIdx := by
  cases h with
  | search hi => exact absurd hi (by simp [hsearch, hcond])
  | sendRom | matchRom | loop | leave | error => exact ⟨rfl, rfl⟩

/-- Only READ_ROM writes the cursor of the ROM send. -/
theorem RomCommandDoes.txCur (h : RomCommandDoes i s t) (hread : i ≠ .readRom) :
    t.txCur = s.txCur := by
  cases h with
  | sendRom hi => exact absurd hi hread
  | search | matchRom | loop | leave | error => rfl

end

/-- Settles O47: `Kept`, and the fields of the block that it does not speak of. -/
theorem romCommandFrame : Obligations.RomCommandFrame := by
  intro s t i hi h
  have does := romCommand_does hi h
  have kept := does.kept
  obtain ⟨phase, resume, buffer, low⟩ := does.fields
  exact ⟨kept.enabled, phase, kept.rom, kept.alarmed, resume, buffer, low, kept.recvCbEn, kept.bitCbEn,
    does.search_fields, does.txCur, fun a => by rw [kept.tx], kept.cfg, kept.now, kept.ext,
    kept.lineSeen, kept.inputs, kept.reactions, kept.result, kept.ties⟩

end Sys2Proof.Machine
end

section
/-! PROOFS, 44_protocol_fsm.md: the reset pulse and the presence pulse (O20, O21). -/

namespace Sys2Proof.Machine

/-! ### The reset pulse (R201 to R204) -/

theorem cancelNotice_of_none {s : State} (h : s.ps = none) : cancelNotice s = [] := by
  simp only [cancelNotice, h]

/-- Without an armed client send a transaction is left silently (R207). -/
theorem enterWFR_of_none {s : State} (h : s.ps = none) : enterWFR s = backToWaiting s [] := by
  rw [enterWFR_eq, cancelNotice_of_none h]

/-- A reset is accepted, as one record (R204). -/
theorem resetAccepted_eq {s : State} (hop : s.op = .idle) : resetAccepted s = { s with
    fsm := .assertingPresence, apPhase := .wait
    timer := some ⟨s.now + effectiveDelay s.cfg s.cfg.tPresenceWait, .beginPresence⟩
    out := s.out ++ eventNotice s .reset 0 } := by
  simp only [resetAccepted, notifyEvent_record, timerSchedule, ← hop]
  rfl

/-- A block that waits for a reset is back in WaitingForReset already: leaving again only notifies. -/
theorem WaitingShape.backToWaiting_eq {s : State} (h : WaitingShape s) (said : List Emission) :
    backToWaiting s said = { s with out := s.out ++ said } := by
  have htimer : keptTimer s = s.timer := by rw [← withoutSlotCallback_eq, h.timer.withoutSlotCallback]
  obtain ⟨-, ⟨op, curBit, ps, txSrc, stale⟩, -, fsm, -, driveLow⟩ := h
  rw [backToWaiting, htimer]
  obtain ⟨⟨⟩, ⟨⟩⟩ := s
  cases op; cases curBit; cases ps; cases txSrc; cases stale; cases fsm; cases driveLow
  rfl

/-- A low pulse that has ended while waiting for a reset is ignored, accepted or raised, by its length
(R202 to R204). -/
theorem WaitingShape.classifyPulse_eq {s : State} (h : WaitingShape s) (d : Nat) :
    (d < 480 → Machine.classifyPulse d s = s) ∧
    (480 ≤ d → d ≤ 900 → Machine.classifyPulse d s = resetAccepted s) ∧
    (900 < d → Machine.classifyPulse d s =
      { s with out := s.out ++ ⟨s.now, .diag 1⟩ :: eventNotice s .error 0 }) := by
  obtain ⟨hmin, hmax, -⟩ := h.cfg_legal
  simp only [Machine.classifyPulse, hmin, hmax]
  refine ⟨fun hshort => if_pos hshort, fun hlong hfit => ?_, fun htoo => ?_⟩
  · rw [if_neg (by omega), if_neg (by omega)]
  · rw [if_neg (by omega), if_pos htoo, raiseError_eq, h.backToWaiting_eq, cancelNotice_of_none h.ps]
    rfl

/-- A rising edge that is seen while waiting disarms the timer (R153). -/
theorem WaitingShape.risen_eq {s : State} (h : WaitingShape s) :
    risen { s with lineSeen := true } =
      { s with lineSeen := true, lowStart := none, timer := none } := by
  rw [risen, h.timer.withoutResetCheck]

/-- A rising edge that is seen leaves the block waiting, until the pulse is classified. -/
theorem WaitingShape.risen {s : State} (h : WaitingShape s) :
    WaitingShape (risen { s with lineSeen := true }) := by
  rw [h.risen_eq]
  exact { h with
    timer_future := by rintro e ⟨⟩
    low_past := by rintro t ⟨⟩
    timer := .inl rfl }

/-- Without a recorded fall no reset check is pending (R156). -/
theorem WaitingShape.timer_of_unseen {s : State} (h : WaitingShape s) (hlow : s.lowStart = none) :
    s.timer = none := by
  rcases h.timer with hnone | ⟨d, t0, -, hseen⟩
  · exact hnone
  · cases hlow.symm.trans hseen

theorem Inv.waitingShape {s : State} (h : Inv s) (hf : s.fsm = .waitingForReset) : WaitingShape s := by
  rcases inv_shapes h with hd | hw | hp | ha | hs | hh
  · cases hf.symm.trans hd.fsm
  · exact hw
  · cases hf.symm.trans hp.fsm
  · exact absurd hf ha.owner.facts.1.2.1
  · exact absurd hf hs.owner.facts.1.2.1
  · exact absurd hf hh.owner.facts.1.2.1

/-- Settles O20: the rising edge disarms the timer, and the pulse, if its fall was seen, is classified by
its length; without a recorded fall there is nothing to classify and no timer to disarm. -/
theorem pulseClassifiedAtItsEnd : Obligations.PulseClassifiedAtItsEnd := by
  intro s hinv hdue hfsm
  have hw := hinv.waitingShape hfsm
  have heard : edgeIgnored { s with lineSeen := true } = false :=
    edgeIgnored_eq_false hw.enabled (by simp [hfsm])
  rw [(dueEdgeComesFirst s).1 hdue]
  refine ⟨fun t0 hlow => ?_, fun hlow => ?_⟩
  · obtain ⟨short, fits, long⟩ := hw.risen.classifyPulse_eq (s.now - t0)
    rw [rise_eq_classifyPulse heard hfsm hlow]
    rw [hw.risen_eq] at short fits long ⊢
    exact ⟨fun h => congrArg _ (short h),
      fun h h' => congrArg _ ((fits h h').trans (resetAccepted_eq hw.op)),
      fun h => congrArg _ (long h)⟩
  · rw [rise_eq_risen heard (.inr hlow), hw.risen_eq, ← hlow, ← hw.timer_of_unseen hlow]

/-! ### The presence pulse (R205, R206) -/

/-- Settles O21: each callback runs with its slot cleared, at its deadline. -/
theorem presencePulse : Obligations.PresencePulse := fun s t =>
  ⟨timerFiresAtDeadlineCleared s .beginPresence t, timerFiresAtDeadlineCleared s .endPresence t⟩

end Sys2Proof.Machine
end

section
/-! PROOFS, 44_protocol_fsm.md: the eighth bit of a byte, by the state that receives it (O13, O24, O28,
O29). -/

namespace Sys2Proof.Machine

/-! ### The eighth bit of a byte (R183) -/

/-- The byte that the eighth bit completes: bits 0 to 6 from the accumulator, bit 7 the line (R182). -/
def completedByte (s : State) : Byte := s.rxAcc ||| (if s.line then 0x80 else 0x00)

theorem addBit_seven (acc : Byte) (b : Bool) : addBit acc b 7 = acc ||| (if b then 0x80 else 0x00) := by
  cases b <;> rfl

/-- The eighth bit completes the byte (R183). -/
theorem accumulate_last {s : State} (h : s.rxBit = 7) (b : Bool) :
    accumulate b s = byteComplete { s with rxAcc := s.rxAcc ||| (if b then 0x80 else 0x00) } := by
  have full : ¬ s.rxBit.toNat < 7 := by simp [h]
  simp only [accumulate, if_neg full]
  rw [h, addBit_seven]

/-- What the owner of a byte finds when the Sample of its eighth bit at time `t` completes it. -/
def completed (s : State) (t : Nat) : State := { sampled s t with rxAcc := completedByte s }

/-- The Sample of the eighth bit of a command byte or a byte of Match ROM completes the byte (R154,
R183). -/
theorem step_of_eighth_sample {s : State} {t : Nat} (hdue : TimerDue s .sample t)
    (hfsm : s.fsm = .receivingCommand ∨ s.fsm = .matchingRom) (hstale : s.stale = false)
    (hbit : s.rxBit = 7) : step s = byteComplete (completed s t) := by
  have silent : (sampled s t).fsm ≠ .receivingApplicationByte := by
    rcases hfsm with h | h <;> simp [sampled, h]
  rw [step_of_sample_sampled hdue,
    recvBitDone_receiving (s := sampled s t) hstale (hfsm.imp_right .inl), if_neg silent,
    List.append_nil]
  exact accumulate_last (s := sampled s t) hbit s.line

/-- The Sample of the eighth bit of an application byte completes the byte, once the bit has been notified
(R154, R183, R231). -/
theorem step_of_eighth_application_sample {s : State} {t : Nat} (hdue : TimerDue s .sample t)
    (hfsm : s.fsm = .receivingApplicationByte) (hstale : s.stale = false) (hbit : s.rxBit = 7) :
    step s = byteComplete { completed s t with
      out := s.out ++ bitNotice (sampled s t) s.line } := by
  rw [step_of_sample_sampled hdue,
    recvBitDone_receiving (s := sampled s t) hstale (.inr (.inr hfsm)), if_pos (by exact hfsm)]
  exact accumulate_last (by exact hbit) s.line

/-! ### Whose byte it is (R183) -/

theorem byteComplete_command {s : State} (h : s.fsm = .receivingCommand) :
    byteComplete s = dispatchCommand s.rxAcc { s with rxAcc := 0, rxBit := 0 } := by
  simp only [byteComplete, h]

theorem byteComplete_matching {s : State} (h : s.fsm = .matchingRom) :
    byteComplete s = matchByte s.rxAcc { s with rxAcc := 0, rxBit := 0 } := by
  simp only [byteComplete, h]

theorem byteComplete_application {s : State} (h : s.fsm = .receivingApplicationByte) :
    byteComplete s = .next (armRecv { s with
      rxAcc := 0, rxBit := 0, out := s.out ++ eventNotice s .byte s.rxAcc }) := by
  simp only [byteComplete, h, notifyEvent_record]
  rfl

/-! ### A command byte (R210, R218) -/

/-- Settles O13: the eighth Sample completes the byte, and its dispatch decodes and executes it. -/
theorem stepRunsCommandByte : Obligations.StepRunsCommandByte := by
  rintro s t i hdue hfsm hstale hbit rfl
  exact (step_of_eighth_sample hdue (.inl hfsm) hstale hbit).trans
    (byteComplete_command (s := completed s t) hfsm)

/-! ### A byte of Match ROM (R220, R221) -/

/-- The bytes of an array register in the order of their indices. -/
def byteList (a : Bytes8) : List Byte := [a.b0, a.b1, a.b2, a.b3, a.b4, a.b5, a.b6, a.b7]

theorem byteList_getElem (a : Bytes8) (i : BitVec 3) : (byteList a)[i.toNat]? = some (byteAt a i) := by
  obtain ⟨n, hn⟩ := i
  interval_cases n <;> rfl

theorem byteList_setByteAt (a : Bytes8) (i : BitVec 3) (v : Byte) :
    byteList (setByteAt a i v) = (byteList a).set i.toNat v := by
  obtain ⟨n, hn⟩ := i
  interval_cases n <;> rfl

/-- The byte that was stored reads as it was stored, every other byte reads as before (R62). -/
theorem byteAt_setByteAt (a : Bytes8) (i k : BitVec 3) (v : Byte) :
    byteAt (setByteAt a i v) k = if k.toNat = i.toNat then v else byteAt a k := by
  have inside : i.toNat < (byteList a).length := i.isLt
  apply Option.some_injective
  rw [← byteList_getElem, byteList_setByteAt, List.getElem?_set, if_pos inside, byteList_getElem]
  by_cases h : k.toNat = i.toNat
  · rw [if_pos h.symm, if_pos h]
  · rw [if_neg (Ne.symm h), if_neg h]

/-- A byte of Match ROM before the eighth is stored, and the next receive armed (R220). -/
theorem matchByte_of_lt {s : State} (h : s.rxByte.toNat < 7) (v : Byte) :
    matchByte v s = .next (armRecv { s with
      rxBuf := setByteAt s.rxBuf (s.rxByte.setWidth 3) v, rxByte := s.rxByte + 1 }) := by
  have room : s.rxByte.toNat < 8 := by omega
  have more : s.rxByte.toNat + 1 < 8 := by omega
  simp only [matchByte, if_pos room, if_pos more]

/-- The eighth byte is stored and all eight are compared (R221). -/
theorem matchByte_last {s : State} (h : s.rxByte = 7) (v : Byte) :
    matchByte v s = .next (matchCompare { s with
      rxBuf := { s.rxBuf with b7 := v }, rxByte := 8 }) := by
  simp only [matchByte, h]
  rfl

/-- What the store of a byte of Match ROM finds: the accumulator cleared for the next byte (R183). -/
def cleared (s : State) (t : Nat) : State := { completed s t with rxAcc := 0, rxBit := 0 }

/-- The Sample of the eighth bit of a byte of Match ROM stores the byte (R183). -/
theorem step_of_match_sample {s : State} {t : Nat} (hdue : TimerDue s .sample t)
    (hfsm : s.fsm = .matchingRom) (hstale : s.stale = false) (hbit : s.rxBit = 7) :
    step s = matchByte (completedByte s) (cleared s t) :=
  (step_of_eighth_sample hdue (.inr hfsm) hstale hbit).trans
    (byteComplete_matching (s := completed s t) hfsm)

/-- Settles O28: the completed byte goes to the place that the byte cursor names. -/
theorem matchByteStored : Obligations.MatchByteStored := by
  intro s t hdue hfsm hstale hbit hbyte
  have place : (s.rxByte.setWidth 3).toNat = s.rxByte.toNat := by bv_omega
  refine ⟨setByteAt s.rxBuf (s.rxByte.setWidth 3) (completedByte s),
    (step_of_match_sample hdue hfsm hstale hbit).trans
      (matchByte_of_lt (s := cleared s t) hbyte _), fun k => ?_⟩
  rw [byteAt_setByteAt, place]
  rfl

/-- The match holds: RESUME is allowed and the application byte loop entered (R221, R230). -/
theorem matchCompare_of_eq {s : State} (h : s.rxBuf = s.rom) :
    matchCompare s = inFreshByte { s with resumeAllowed := true } :=
  if_pos h

/-- The match fails: RESUME is not allowed and the transaction left, silently as no client send is armed
(R221, R207). -/
theorem matchCompare_of_ne {s : State} (h : s.rxBuf ≠ s.rom) (hps : s.ps = none) :
    matchCompare s = backToWaiting { s with resumeAllowed := false } [] := by
  rw [matchCompare, if_neg h]
  exact enterWFR_of_none hps

/-- Settles O29: the completed byte is the eighth, so that all eight are compared. -/
theorem matchCompareDecides : Obligations.MatchCompareDecides := by
  intro s t hdue hfsm hstale hbit hbyte hps v done
  have step_eq := (step_of_match_sample hdue hfsm hstale hbit).trans
    (matchByte_last (s := cleared s t) hbyte _)
  exact ⟨fun heq => step_eq.trans (congrArg _ (matchCompare_of_eq heq)),
    fun hne => step_eq.trans (congrArg _ (matchCompare_of_ne hne hps))⟩

/-! ### An application byte, and the WRITE that answers it (R232, R256, R267) -/

/-- A new send with a bit to send takes the slot of an armed operation (R256). -/
theorem armNewSend_armed {s : State} {p : PendingSend} (hp : p.InRange) (hop : s.op.armed = true) :
    armNewSend p s = .next (armSend (payloadBit s p.payload) { s with
      ps := some p
      rxAcc := if s.fsm = Fsm.receivingApplicationByte then 0 else s.rxAcc
      rxBit := if s.fsm = Fsm.receivingApplicationByte then 0 else s.rxBit
      fsm := .sendingBytes, txSrc := some .client }) := by
  obtain ⟨b, hb, heq⟩ := armNewSend_of_inRange p s hp
  cases (psBit_eq_payloadBit hp s).symm.trans hb
  simp only [heq, if_pos hop]
  rfl

/-- What WRITE of a non-empty buffer queues (R256). -/
theorem bytesSend_of_pos {a len : Nat} (h : 0 < len) (hasCb : Bool) :
    bytesSend (some a) len hasCb = some ⟨.bytes a len 0 0, hasCb⟩ :=
  if_neg h.ne'

/-- A WRITE of a non-empty buffer while an application byte is received and no slot is in flight: the first
bit of its first byte goes in the next slot (R256). -/
theorem execWrite_receiving {s : State} {a len : Nat} {hasCb : Bool} (henabled : s.enabled = true)
    (hfsm : s.fsm = .receivingApplicationByte) (hop : s.op = .recvArmed) (hps : s.ps = none)
    (hlen : 0 < len) :
    exec (.write (some a) len hasCb) s =
      .next (armSend ((Memory.read s.tx a).getLsbD 0) { s with
        ps := some ⟨.bytes a len 0 0, hasCb⟩, rxAcc := 0, rxBit := 0
        fsm := .sendingBytes, txSrc := some .client }) := by
  have hnew := bytesSend_of_pos (a := a) hlen hasCb
  simp only [exec, execWrite, hnew, queueSend_inLoop _ s henabled (.inl hfsm)]
  rw [armNewSend_armed (bytesSend_inRange hnew) (by simp [hop, BitOp.armed])]
  simp only [hfsm, if_true, cancelNotice_of_none hps, List.append_nil]
  rfl

theorem bitNotice_length (s : State) (b : Bool) :
    (bitNotice s b).length = if s.bitCbEn then 1 else 0 :=
  apply_ite _ _ _ _

/-- Settles O24: the completed byte is notified, so that the reaction to that notification is due at once;
no edge is, since no line has moved. -/
theorem sampleCompletesApplicationByte : Obligations.SampleCompletesApplicationByte := by
  intro s t hdue hfsm hstale hbit handed
  refine ⟨?_, fun req a len hasCb later henabled hrecv hps hreq hlen hreact => ?_⟩
  · exact (step_of_eighth_application_sample hdue hfsm hstale hbit).trans
      (byteComplete_application (by exact hfsm))
  · obtain ⟨noEdge, -⟩ := hdue
    have answered : s.out.length + (bitNotice s s.line).length < handed.out.length := by
      simp [handed, eventNotice, bitNotice_length, hrecv]
    have due : ReactionDue handed (.operation req) later := ⟨noEdge, _, hreact, answered⟩
    rw [(stepRunsClientOperation handed req _ hreq).2 later due]
    exact execWrite_receiving henabled hfsm rfl hps hlen

end Sys2Proof.Machine
end

section
/-! PROOFS, 44_protocol_fsm.md: the rounds of a search (O26, O27). -/

namespace Sys2Proof.Machine

/-! ### The two sends of a round (R227) -/

/-- A bit sent in a search belongs to the search (R189). -/
theorem sendBitDone_search {s : State} (hstale : s.stale = false) (hfsm : s.fsm = .searchingRom) :
    sendBitDone s = .next (searchSendDone s) := by
  simp [sendBitDone, hstale, hfsm]

theorem searchSendDone_true {s : State} (h : s.searchPhase = .sendTrue) :
    searchSendDone s = armSend (!romBit s.searchIdx s) (setSearchPhase .sendComplement s) := by
  simp only [searchSendDone, h]

theorem searchSendDone_complement {s : State} (h : s.searchPhase = .sendComplement) :
    searchSendDone s = armRecv (setSearchPhase .recvDirection s) := by
  simp only [searchSendDone, h]

/-- A slot that ends leaves alone the round of a search and its slot. -/
theorem SlotSent.sameSearch {s done : State} (h : SlotSent s done) :
    done.searchPhase = s.searchPhase ∧ done.searchIdx = s.searchIdx := by
  rcases h with ⟨t, -, rfl⟩ | ⟨-, -, -, rfl⟩
  · exact ⟨rfl, rfl⟩
  · exact ⟨rfl, rfl⟩

/-- The completed slot of a search, whichever way it completed: the complement follows the true bit, the
receive of the direction the complement (R227). -/
theorem step_of_searchSlotSent {s done : State} (h : SlotSent s done) (hfsm : s.fsm = .searchingRom)
    (hstale : s.stale = false) :
    (s.searchPhase = .sendTrue → step s = .next { done with
      searchPhase := .sendComplement, op := sendOp (!romBit s.searchIdx s)
      curBit := some (!romBit s.searchIdx s) }) ∧
    (s.searchPhase = .sendComplement → step s = .next { done with
      searchPhase := .recvDirection, op := .recvArmed, curBit := none }) := by
  obtain ⟨sameStale, sameFsm, -, -, sameRom⟩ := h.same
  obtain ⟨samePhase, sameIdx⟩ := h.sameSearch
  have step_eq : step s = .next (searchSendDone { done with op := .idle }) :=
    (step_of_slotSent s done h (by simp [hfsm]) (by simp [hfsm])).trans
      (sendBitDone_search (sameStale.trans hstale) (sameFsm.trans hfsm))
  refine ⟨fun hphase => ?_, fun hphase => ?_⟩
  · rw [← samePhase] at hphase
    rw [step_eq, searchSendDone_true (by exact hphase), ← sameIdx, ← romBit_congr sameRom]
    rfl
  · rw [← samePhase] at hphase
    rw [step_eq, searchSendDone_complement (by exact hphase)]
    rfl

/-- Settles O26: both completions are slots in which a bit went out. -/
theorem searchSendsTrueThenComplement : Obligations.SearchSendsTrueThenComplement := by
  intro s hfsm hstale b
  exact ⟨fun t hdue => step_of_searchSlotSent (.inl ⟨t, hdue, rfl⟩) hfsm hstale,
    fun hdue henabled hop => step_of_searchSlotSent (.inr ⟨hdue, henabled, hop, rfl⟩) hfsm hstale⟩

/-! ### The direction of a round (R228) -/

/-- A bit received in a search is the direction (R190). -/
theorem recvBitDone_search {s : State} (hstale : s.stale = false) (hfsm : s.fsm = .searchingRom)
    (b : Bool) : recvBitDone b false s = .next (searchRecvDone b s) := by
  simp [recvBitDone, hstale, hfsm]

/-- The other branch was taken: the search is lost. -/
theorem searchRecvDone_lost {b : Bool} {s : State} (h : b ≠ romBit s.searchIdx s) :
    searchRecvDone b s = enterWFR s :=
  if_pos h

/-- The last round is won: the search is over. -/
theorem searchRecvDone_over {b : Bool} {s : State} (h : b = romBit s.searchIdx s)
    (hlast : s.searchIdx = 63) : searchRecvDone b s = enterWFR { s with searchIdx := 0 } := by
  rw [searchRecvDone, if_neg (not_not.2 h), if_pos hlast]

/-- Another round is won: the true bit of the next one follows. -/
theorem searchRecvDone_won {b : Bool} {s : State} (h : b = romBit s.searchIdx s)
    (hmore : s.searchIdx.toNat < 63) : searchRecvDone b s =
      armSend (romBit (s.searchIdx + 1) s)
        (setSearchPhase .sendTrue { s with searchIdx := s.searchIdx + 1 }) := by
  have hne : s.searchIdx ≠ 63 := by bv_omega
  rw [searchRecvDone, if_neg (not_not.2 h), if_neg hne]

/-- Settles O27: the Sample hands the direction to the search, which compares it with its own bit. -/
theorem searchDirectionReceived : Obligations.SearchDirectionReceived := by
  intro s t hdue hfsm hstale hps done
  have step_eq : step s = .next (searchRecvDone s.line (sampled s t)) :=
    (step_of_sample_sampled hdue).trans (recvBitDone_search (s := sampled s t) hstale hfsm _)
  refine ⟨fun hne => ?_, fun heq hlast => ?_, fun heq hmore => ?_⟩
  · rw [step_eq, searchRecvDone_lost (s := sampled s t) hne, enterWFR_of_none (s := sampled s t) hps]
    rfl
  · rw [step_eq, searchRecvDone_over (s := sampled s t) heq hlast,
      enterWFR_of_none (s := { sampled s t with searchIdx := 0 }) hps]
    rfl
  · rw [step_eq, searchRecvDone_won (s := sampled s t) heq hmore]
    rfl

end Sys2Proof.Machine
end

section
/-! PROOFS, 44_protocol_fsm.md: the protocol state moves only along table T-FSM (O53). -/

namespace Sys2Proof.Machine

/-! ### Rows of table T-FSM (R200) -/

/-- Every next state of the outcome is in the protocol state `a`, or a row of the table leads there. -/
def MovesByRow (a : Fsm) (o : Host.Outcome State Fault Refusal) : Prop :=
  ∀ t, o = .next t → t.fsm = a ∨ (a, t.fsm) ∈ fsmMoves

theorem movesByRow_stay {a : Fsm} {t : State} (h : t.fsm = a) : MovesByRow a (.next t) := by
  rintro _ ⟨⟩
  exact .inl h

theorem movesByRow_row {a b : Fsm} (c : Fsm) {t : State} (ha : a = b) (hc : t.fsm = c)
    (hrow : (b, c) ∈ fsmMoves) : MovesByRow a (.next t) := by
  rintro _ ⟨⟩
  exact .inr (by rwa [ha, hc])

theorem movesByRow_fault (a : Fsm) (f : Fault) : MovesByRow a (.fault f) := by
  rintro _ ⟨⟩

/-! ### The ends of a slot (43_byte_layer.md) -/

theorem movesByRow_armPsBit (s : State) : MovesByRow s.fsm (armPsBit s) := by
  intro t h
  obtain ⟨p, b, -, -, rfl⟩ := armPsBit_next s t h
  exact .inl rfl

theorem movesByRow_armNext (s : State) : MovesByRow s.fsm (armNext s) := by
  unfold armNext
  split
  · exact movesByRow_armPsBit s
  · exact movesByRow_stay rfl

/-- A client send that is over gives way to the application byte loop (R187). -/
theorem movesByRow_clientSendProgress {s : State} (hfsm : s.fsm = .sendingBytes) :
    MovesByRow s.fsm (clientSendProgress s) := by
  have done (u : State) : MovesByRow s.fsm (.next (sendComplete u)) :=
    movesByRow_row .receivingApplicationByte hfsm rfl (by decide)
  unfold clientSendProgress
  split
  · exact movesByRow_fault _ _
  · split
    · split
      · exact movesByRow_stay rfl
      · exact done s
    next buf len byteCur bitCur hp =>
      dsimp only
      generalize (if bitCur = 7 then byteCur + 1 else byteCur) = cur
      split
      · exact done _
      · exact movesByRow_armPsBit _

/-- The ROM sent, the application byte loop is entered (R223). -/
theorem movesByRow_readRomProgress {s : State} (hfsm : s.fsm = .sendingBytes) :
    MovesByRow s.fsm (readRomProgress s) := by
  unfold readRomProgress
  dsimp only
  split
  · exact movesByRow_row .receivingApplicationByte hfsm rfl (by decide)
  · split
    · exact movesByRow_stay rfl
    · exact movesByRow_fault _ _

/-- A send in a search stays in the search (R227). -/
theorem searchSendDone_fsm (s : State) : (searchSendDone s).fsm = s.fsm := by
  unfold searchSendDone
  split <;> rfl

theorem movesByRow_sendBitDone (s : State) : MovesByRow s.fsm (sendBitDone s) := by
  unfold sendBitDone
  split
  · exact movesByRow_armNext { s with stale := false }
  · split
    · exact movesByRow_stay (searchSendDone_fsm s)
    next hfsm _ => exact movesByRow_readRomProgress hfsm
    next hfsm _ => exact movesByRow_clientSendProgress hfsm
    · exact movesByRow_fault _ _

/-- A search that is lost or over is left, any other goes on (R228). -/
theorem movesByRow_searchRecvDone {s : State} (hfsm : s.fsm = .searchingRom) (b : Bool) :
    MovesByRow s.fsm (.next (searchRecvDone b s)) := by
  have left (u : State) : MovesByRow s.fsm (.next (enterWFR u)) :=
    movesByRow_row .waitingForReset hfsm rfl (by decide)
  unfold searchRecvDone
  split
  · exact left s
  · split
    · exact left _
    · exact movesByRow_stay rfl

/-- The rows that leave ReceivingCommand are those of the commands (R211 to R217). -/
theorem RomCommandDoes.row {i : Instr} {s t : State} (h : RomCommandDoes i s t) :
    (.receivingCommand, t.fsm) ∈ fsmMoves := by
  cases h <;> simp [fsmMoves, startSearch]

theorem movesByRow_dispatchCommand (v : Byte) (s : State) :
    MovesByRow .receivingCommand (dispatchCommand v s) :=
  fun _ h => .inr (romCommand_does (isRomCommand_decodeCommand v) h).row

/-- The compare of a Match ROM enters the application byte loop or leaves (R221). -/
theorem movesByRow_matchByte {s : State} (hfsm : s.fsm = .matchingRom) (v : Byte) :
    MovesByRow s.fsm (matchByte v s) := by
  unfold matchByte matchCompare
  split
  · dsimp only
    split
    · exact movesByRow_stay rfl
    · split
      · exact movesByRow_row .receivingApplicationByte hfsm rfl (by decide)
      · exact movesByRow_row .waitingForReset hfsm rfl (by decide)
  · exact movesByRow_fault _ _

/-- A completed byte moves the states that receive one (R183). -/
theorem movesByRow_byteComplete (s : State) : MovesByRow s.fsm (byteComplete s) := by
  cases hfsm : s.fsm with
  | receivingCommand =>
    rw [byteComplete_command hfsm]
    exact movesByRow_dispatchCommand _ _
  | matchingRom =>
    rw [byteComplete_matching hfsm, ← hfsm]
    exact movesByRow_matchByte (s := { s with rxAcc := 0, rxBit := 0 }) hfsm _
  | receivingApplicationByte =>
    rw [byteComplete_application hfsm]
    exact movesByRow_stay hfsm
  | disabled | waitingForReset | assertingPresence | searchingRom | sendingBytes =>
    simp only [byteComplete, hfsm]
    exact movesByRow_fault _ _

theorem movesByRow_accumulate (b : Bool) (s : State) : MovesByRow s.fsm (accumulate b s) := by
  unfold accumulate
  dsimp only
  split
  · exact movesByRow_stay rfl
  · exact movesByRow_byteComplete { s with rxAcc := addBit s.rxAcc b s.rxBit }

theorem movesByRow_recvBitDone (b : Bool) (s : State) : MovesByRow s.fsm (recvBitDone b false s) := by
  unfold recvBitDone
  simp only [Bool.false_eq_true, if_false]
  split
  · exact movesByRow_armNext { s with stale := false }
  · split
    next hfsm => exact movesByRow_searchRecvDone hfsm b
    · split
      · exact movesByRow_accumulate b (notifyBit b s)
      · exact movesByRow_accumulate b s

/-! ### The edges and the callbacks (42_bit_transceiver.md) -/

/-- A pulse that ends moves the protocol only if it is a reset (R202 to R204). -/
theorem movesByRow_classifyPulse {s : State} (hfsm : s.fsm = .waitingForReset) (d : Nat) :
    MovesByRow s.fsm (.next (classifyPulse d s)) := by
  unfold classifyPulse
  split
  · exact movesByRow_stay rfl
  · split
    · exact movesByRow_stay hfsm.symm
    · exact movesByRow_row .assertingPresence hfsm rfl (by decide)

theorem movesByRow_rise (s : State) : MovesByRow s.fsm (rise s) := by
  unfold rise
  split
  · exact movesByRow_stay rfl
  · dsimp only
    split
    next hfsm _ =>
      exact movesByRow_classifyPulse
        (s := { s with lowStart := none, timer := withoutResetCheck s.timer }) hfsm _
    · exact movesByRow_stay rfl

theorem movesByRow_startSlot (s : State) : MovesByRow s.fsm (startSlot s) := by
  cases hop : s.op with
  | send1Armed =>
    simp only [startSlot, hop, scheduleResetCheck_eq]
    exact movesByRow_sendBitDone _
  | recvArmed | send0Armed | idle | recvSampling | send0Holding =>
    simp only [startSlot, hop]
    exact movesByRow_stay rfl

theorem movesByRow_fall (s : State) : MovesByRow s.fsm (fall s) := by
  unfold fall
  split
  · exact movesByRow_stay rfl
  · dsimp only
    split
    · exact movesByRow_stay rfl
    · exact movesByRow_startSlot { s with lowStart := some s.now }

/-- Every state of a running transaction can be left for WaitingForReset (R207). -/
theorem leave_row {f : Fsm} (hdisabled : f ≠ .disabled) (hwaiting : f ≠ .waitingForReset)
    (hpresence : f ≠ .assertingPresence) : (f, .waitingForReset) ∈ fsmMoves := by
  cases f with
  | disabled | waitingForReset | assertingPresence => contradiction
  | receivingCommand | searchingRom | matchingRom | receivingApplicationByte | sendingBytes => decide

/-- The reset check leaves a transaction, which is running when the check is pending (R157, R41 (d)). -/
theorem movesByRow_resetCheck {s : State} (hdisabled : s.fsm ≠ .disabled)
    (hpresence : s.fsm ≠ .assertingPresence) : MovesByRow s.fsm (.next (resetCheck s)) := by
  unfold resetCheck
  split
  next hleft =>
    obtain ⟨-, hwaiting⟩ := hleft
    exact movesByRow_row .waitingForReset rfl rfl (leave_row hdisabled hwaiting hpresence)
  · exact movesByRow_stay rfl

theorem movesByRow_sample (s : State) : MovesByRow s.fsm (sample s) := by
  intro t h
  rw [sample, scheduleResetCheck_eq] at h
  have moved := movesByRow_recvBitDone _ _ t h
  exact moved

theorem movesByRow_holdEnd (s : State) : MovesByRow s.fsm (holdEnd s) := by
  intro t h
  rw [holdEnd, scheduleResetCheck_eq] at h
  have moved := movesByRow_sendBitDone _ t h
  exact moved

/-- The callback of an armed timer: only EndPresence and a reset check ask for what the invariant says of
the state that armed them. -/
theorem movesByRow_timer {s : State} (h : Inv s) {d : Nat} {cb : Callback}
    (ht : s.timer = some ⟨d, cb⟩) (n k : Nat) : MovesByRow s.fsm (runCallback cb (fired s n k)) := by
  cases cb with
  | beginPresence => exact movesByRow_stay rfl
  | endPresence =>
    obtain ⟨hfsm, -⟩ := h.timer_end.2 ⟨d, ht⟩
    exact movesByRow_row .receivingCommand hfsm rfl (by decide)
  | sample => exact movesByRow_sample (fired s n k)
  | holdEnd => exact movesByRow_holdEnd (fired s n k)
  | resetCheck =>
    obtain ⟨-, -, hpresence⟩ := h.timer_check d ht
    have hdisabled : s.fsm ≠ .disabled := fun hfsm => by
      obtain ⟨hnone, -⟩ := h.disabled_quiet hfsm
      cases hnone.symm.trans ht
    exact movesByRow_resetCheck (s := fired s n k) hdisabled hpresence

/-! ### The client port (45_client_port.md) -/

/-- A new send moves to SendingBytes (R256). -/
theorem armNewSend_fsm {p : PendingSend} {s t : State} (h : armNewSend p s = .next t) :
    t.fsm = .sendingBytes := by
  cases hop : s.op with
  | recvArmed | send1Armed | send0Armed =>
    simp only [armNewSend, hop] at h
    obtain ⟨_, b, -, -, rfl⟩ := armPsBit_next _ t h
    rfl
  | idle | recvSampling | send0Holding =>
    simp only [armNewSend, hop] at h
    cases h
    rfl

/-- The empty send gives way to reception where a send was armed (R258). -/
theorem emptySend_fsm (s : State) : (emptySend s).fsm = s.fsm ∨
    (s.fsm = .sendingBytes ∧ (emptySend s).fsm = .receivingApplicationByte) := by
  unfold emptySend
  split
  next hfsm =>
    refine .inr ⟨hfsm, ?_⟩
    dsimp only
    split <;> rfl
  · exact .inl rfl

/-- A queued send moves within the application byte loop (R256 to R260). -/
theorem movesByRow_queueSend (new : Option PendingSend) (s : State) :
    MovesByRow s.fsm (queueSend new s) := by
  cases henabled : s.enabled with
  | false =>
    rw [queueSend_disabled new s henabled]
    exact movesByRow_stay rfl
  | true =>
    by_cases hloop : InLoop s
    · rw [queueSend_inLoop new s henabled hloop]
      cases new with
      | none =>
        rcases emptySend_fsm { s with ps := none, out := s.out ++ cancelNotice s } with hsame |
          ⟨hsending, hreceiving⟩
        · exact movesByRow_stay hsame
        · exact movesByRow_row .receivingApplicationByte hsending hreceiving (by decide)
      | some p =>
        intro t h
        have hsending := armNewSend_fsm h
        rcases hloop with hfsm | ⟨hfsm, -⟩
        · exact .inr (by rw [hfsm, hsending]; decide)
        · exact .inl (hsending.trans hfsm.symm)
    · rw [queueSend_outside new s henabled hloop]
      cases new <;> exact movesByRow_stay rfl

/-- What a client operation does to the protocol state: `begin` and `end` set it, a send moves it within
the application byte loop. -/
theorem clientOperation_fsm {req : ClientReq} {s t : State}
    (h : exec (decode (.client req)) s = .next t) :
    ((∃ r e p, decode (.client req) = .beginOp r e p) ∧ t.fsm = .waitingForReset) ∨
    (decode (.client req) = .endOp ∧ t.fsm = .disabled) ∨
    t.fsm = s.fsm ∨ (s.fsm, t.fsm) ∈ fsmMoves := by
  rcases clientOperation_cases req s t h with ⟨rom, eighth, pin, hi, rfl⟩ | ⟨hi, rfl⟩ | ⟨v, -, rfl⟩ |
    ⟨v, -, rfl⟩ | ⟨v, -, rfl⟩ | ⟨-, new, hq⟩ | ⟨-, rfl⟩ | ⟨-, rfl⟩
  · exact .inl ⟨⟨rom, eighth, pin, hi⟩, rfl⟩
  · split
    · exact .inr (.inl ⟨hi, rfl⟩)
    · exact .inr (.inr (.inl rfl))
  · exact .inr (.inr (.inl rfl))
  · exact .inr (.inr (.inl rfl))
  · exact .inr (.inr (.inl rfl))
  · exact .inr (.inr (movesByRow_queueSend new s t hq))
  · exact .inr (.inr (.inl rfl))
  · exact .inr (.inr (.inl rfl))

/-! ### The step -/

/-- Along a step the protocol state stays, moves by a row, or is set by `begin` or `end`. -/
theorem step_fsm {s t : State} (hinv : Inv s) (h : step s = .next t) :
    ((∃ r e p, ClientTurn s (.beginOp r e p)) ∧ t.fsm = .waitingForReset) ∨
    (ClientTurn s .endOp ∧ t.fsm = .disabled) ∨
    t.fsm = s.fsm ∨ (s.fsm, t.fsm) ∈ fsmMoves := by
  rcases step_agents s _ h with ⟨-, hr⟩ | ⟨-, hf⟩ | ⟨-, -, -, hq⟩ | ⟨⟨d, cb⟩, k, -, ht, -, hc⟩ |
    ⟨l, n, rest, k, -, -, he⟩ | ⟨a, n, rest, later, k, hact, -, -, ha⟩
  · exact .inr (.inr (movesByRow_rise { s with lineSeen := true } t hr.symm))
  · exact .inr (.inr (movesByRow_fall { s with lineSeen := false } t hf.symm))
  · cases hq; exact .inr (.inr (.inl rfl))
  · exact .inr (.inr (movesByRow_timer hinv ht _ k t hc.symm))
  · cases he; exact .inr (.inr (.inl rfl))
  · cases a with
    | operation req =>
      rcases clientOperation_fsm ha.symm with ⟨⟨r, e, p, hi⟩, hfsm⟩ | ⟨hi, hfsm⟩ | hmoved
      · exact .inl ⟨⟨r, e, p, req, hact, hi⟩, hfsm⟩
      · exact .inr (.inl ⟨⟨req, hact, hi⟩, hfsm⟩)
      · exact .inr (.inr hmoved)
    | store addr v => cases ha; exact .inr (.inr (.inl rfl))

/-- Settles O53: `step_fsm`, for a step that has moved the protocol state. -/
theorem fsmMovesAreTheTable : Obligations.FsmMovesAreTheTable := by
  intro s t hinv h hne
  rcases step_fsm hinv h with hbegin | hend | hsame | hrow
  · exact .inl hbegin
  · exact .inr (.inl hend)
  · exact absurd hsame hne
  · exact .inr (.inr hrow)

end Sys2Proof.Machine
end

section
/-! PROOFS, 45_client_port.md: what each client operation answers (O38 to O46), and what it leaves unchanged
(O48). -/

namespace Sys2Proof.Machine

/-! ### Queueing a send in the application byte loop (R256, R258) -/

/-- `s` with the previous send failed and `p` in its place, before it is settled which slot `p` takes. The
bits of an unfinished application byte are dropped (R256). -/
def queuedSend (p : PendingSend) (s : State) : State :=
  { s with
    ps := some p, fsm := .sendingBytes, txSrc := some .client
    rxAcc := if s.fsm = Fsm.receivingApplicationByte then 0 else s.rxAcc
    rxBit := if s.fsm = Fsm.receivingApplicationByte then 0 else s.rxBit
    out := s.out ++ cancelNotice s }

/-- A send with a bit to send takes the slot that is armed; an operation in flight keeps its slot, and is
marked so that its result is dropped (R256). -/
theorem queueSend_inLoop_some {s : State} {p : PendingSend} (henabled : s.enabled = true)
    (hloop : InLoop s) (hp : p.InRange) :
    queueSend (some p) s =
      if s.op.armed then .next { queuedSend p s with
        op := sendOp (payloadBit s p.payload), curBit := some (payloadBit s p.payload) }
      else .next { queuedSend p s with stale := true } := by
  rw [queueSend_inLoop _ s henabled hloop]
  obtain ⟨b, hb, harm⟩ :=
    armNewSend_of_inRange p { s with ps := none, out := s.out ++ cancelNotice s } hp
  cases (psBit_eq_payloadBit hp _).symm.trans hb
  exact harm.trans (apply_ite _ _ _ _)

/-- `s` receiving a fresh application byte with no send armed, the operation still as it was (R258). -/
def stoppedSend (s : State) : State :=
  { s with
    ps := none, fsm := .receivingApplicationByte, txSrc := none, rxLen := 1, rxByte := 0
    rxBit := 0, rxAcc := 0, out := s.out ++ cancelNotice s }

section EmptySend
variable {s : State}

/-- The empty send in the loop: the previous send is failed, then `emptySend` runs (R256). -/
theorem queueSend_inLoop_none (henabled : s.enabled = true) (hloop : InLoop s) :
    queueSend none s = .next (emptySend { s with ps := none, out := s.out ++ cancelNotice s }) :=
  queueSend_inLoop none s henabled hloop

/-- What the empty send does to a client send depends on the operation alone: an armed one gives way to a
receive, a held 0 is to be dropped, any other goes on (R258). -/
theorem queueSend_none_sending {o : BitOp} (henabled : s.enabled = true)
    (hfsm : s.fsm = .sendingBytes) (hsrc : s.txSrc = some .client) (hop : s.op = o) :
    queueSend none s = .next (match o with
      | .send1Armed | .send0Armed => armRecv (stoppedSend s)
      | .send0Holding => { stoppedSend s with stale := true }
      | .idle | .recvArmed | .recvSampling => stoppedSend s) := by
  rw [queueSend_inLoop_none henabled (.inr ⟨hfsm, hsrc⟩)]
  cases o <;> simp [emptySend, stoppedSend, armRecv, hfsm, hop]

/-- With no send armed the empty send finds nothing to stop (R258). -/
theorem queueSend_none_receiving (henabled : s.enabled = true)
    (hfsm : s.fsm = .receivingApplicationByte) (hps : s.ps = none) :
    queueSend none s = .next s := by
  have nothingFailed : { s with ps := none, out := s.out ++ cancelNotice s } = s := by
    rw [cancelNotice_of_none hps, List.append_nil, ← hps]
  rw [queueSend_inLoop_none henabled (.inl hfsm), nothingFailed, emptySend, if_neg (by simp [hfsm])]

end EmptySend

/-! ### Which send an operation queues (R256 to R258) -/

theorem execWrite_of_pos {a len : Nat} (hlen : 0 < len) (hasCb : Bool) (s : State) :
    exec (.write (some a) len hasCb) s = queueSend (some ⟨.bytes a len 0 0, hasCb⟩) s :=
  congrArg (queueSend · s) (bytesSend_of_pos hlen hasCb)

/-- STOP_WRITE, and WRITE of the null buffer or of length 0 (R103, R258). -/
def IsEmptySend (i : Instr) : Prop :=
  i = .stopWrite ∨ (∃ len h, i = .write none len h) ∨ ∃ buf h, i = .write buf 0 h

/-- The three forms of the empty send are one operation. -/
theorem IsEmptySend.exec_eq {i : Instr} (h : IsEmptySend i) (s : State) :
    exec i s = queueSend none s := by
  rcases h with rfl | ⟨len, hasCb, rfl⟩ | ⟨buf, hasCb, rfl⟩
  · rfl
  · rfl
  · cases buf <;> rfl

/-- A WRITE of a non-empty buffer, or a WRITE_BIT. -/
def IsSend (i : Instr) (hasCb : Bool) : Prop :=
  (∃ a len, 0 < len ∧ i = .write (some a) len hasCb) ∨ ∃ value again, i = .writeBit value again hasCb

theorem IsSend.exec_eq {i : Instr} {hasCb : Bool} (h : IsSend i hasCb) (s : State) :
    ∃ payload, exec i s = queueSend (some ⟨payload, hasCb⟩) s := by
  rcases h with ⟨a, len, hlen, rfl⟩ | ⟨value, again, rfl⟩
  · exact ⟨_, execWrite_of_pos hlen hasCb s⟩
  · exact ⟨.bit value again, rfl⟩

/-! ### The sends (R256 to R260) -/

/-- Settles O41: the cursors start at bit 0 of byte 0, which the non-empty buffer has. -/
theorem writeResult : Obligations.WriteResult := by
  intro s a len hasCb henabled hloop hlen b queued
  rw [execWrite_of_pos hlen]
  exact queueSend_inLoop_some henabled hloop (bytesSend_inRange (bytesSend_of_pos hlen hasCb))

/-- Settles O42: one bit is always there to send. -/
theorem writeBitResult : Obligations.WriteBitResult :=
  fun _ value again hasCb henabled hloop =>
    queueSend_inLoop_some henabled hloop (bitSend_inRange value again hasCb)

/-- Settles O43, by the operation that the empty send meets. -/
theorem stopWriteResult : Obligations.StopWriteResult := by
  intro s i hi henabled hfsm hsrc stopped
  rw [IsEmptySend.exec_eq hi s]
  have stops {o : BitOp} (hop : s.op = o) := queueSend_none_sending henabled hfsm hsrc hop
  exact ⟨fun harmed => harmed.elim stops stops, stops, stops⟩

/-- Settles O44: disabled and outside the loop no send is queued, and while receiving there is none to
stop. -/
theorem stopWriteWithoutSendDoesNothing : Obligations.StopWriteWithoutSendDoesNothing := by
  intro s i hi hquiet
  rw [IsEmptySend.exec_eq hi s]
  cases henabled : s.enabled with
  | false => exact queueSend_disabled none s henabled
  | true =>
    rcases hquiet with hdisabled | houtside | ⟨hfsm, hps⟩
    · cases henabled.symm.trans hdisabled
    · exact queueSend_outside none s henabled houtside
    · exact queueSend_none_receiving henabled hfsm hps

/-- Settles O45: the refusal of a send is an answer to its callback, and only while enabled. -/
theorem sendOutsideLoopIsRefused : Obligations.SendOutsideLoopIsRefused := by
  intro s i hasCb hi
  obtain ⟨payload, queues⟩ := IsSend.exec_eq hi s
  rw [queues]
  refine ⟨fun henabled houtside => ?_, queueSend_disabled _ s⟩
  rw [queueSend_outside _ s henabled houtside]
  exact congrArg Host.Outcome.next (emitIf_record hasCb (.sendDone true) s)

/-! ### The other operations (R251 to R255, R261) -/

/-- The set-up writes every field that the tear-down writes, so the `end` that `begin` performs while
enabled leaves no trace (R251). -/
theorem setUp_endIfEnabled (r : Bytes7) (s : State) :
    setUp r (if s.enabled then tearDown s else s) = setUp r s := by
  split <;> rfl

/-- Settles O38: BEGIN is `setUp`, enabled or not. -/
theorem beginResult : Obligations.BeginResult :=
  fun s r _ _ => congrArg Host.Outcome.next (setUp_endIfEnabled r s)

/-- Settles O39: END is `tearDown` while enabled, and nothing while disabled. -/
theorem endResult : Obligations.EndResult := fun _ =>
  ⟨fun henabled => congrArg Host.Outcome.next (if_pos henabled),
    fun hdisabled => congrArg Host.Outcome.next (if_neg (Bool.eq_false_iff.1 hdisabled))⟩

/-- Settles O40: each operation is its own flag's setter. -/
theorem configurationResults : Obligations.ConfigurationResults :=
  fun _ _ _ => ⟨rfl, rfl, rfl, rfl⟩

/-- Settles O46: CRC8 and `begin` call the same function. -/
theorem checksumResult : Obligations.ChecksumResult := fun _ _ _ => ⟨rfl, rfl⟩

/-! ### What every operation leaves unchanged (R251 to R261) -/

/-- The code of table T-CLIENTOP of a client operation; a ROM command has none (R102). -/
def operationCode : Instr → Option (BitVec 4)
  | .beginOp _ _ _ => some 0
  | .endOp => some 1
  | .setRecvCb _ => some 2
  | .setBitCb _ => some 3
  | .alarmed _ => some 4
  | .write _ _ _ => some 5
  | .writeBit _ _ _ => some 6
  | .stopWrite => some 7
  | .crc8 _ => some 8
  | .clientReserved c => some c
  | .searchRom | .condSearch | .readRom | .matchRom | .skipRom | .resume | .unknownCommand _ => none

theorem operationCode_decodeClient (r : ClientReq) : operationCode (decodeClient r) = some r.code := by
  unfold decodeClient
  split_ifs <;> simp_all only [operationCode]

/-- A request has the code of the operation it decodes to. -/
theorem code_of_decode {r : ClientReq} {i : Instr} {c : BitVec 4} (h : decode (.client r) = i)
    (hc : operationCode i = some c) : r.code = c := by
  rw [← h] at hc
  exact Option.some.inj ((operationCode_decodeClient r).symm.trans hc)

/-- What the client operation with this code may do. -/
inductive ClientOperationDoes (code : BitVec 4) (s : State) : State → Prop where
  | establish (rom : Bytes7) (hcode : code = 0) : ClientOperationDoes code s (setUp rom s)
  | tearDown (hcode : code = 1) : ClientOperationDoes code s (tearDown s)
  | setRecvCb (v : Bool) (hcode : code = 2) : ClientOperationDoes code s { s with recvCbEn := v }
  | setBitCb (v : Bool) (hcode : code = 3) : ClientOperationDoes code s { s with bitCbEn := v }
  | alarmed (v : Bool) (hcode : code = 4) : ClientOperationDoes code s { s with alarmed := v }
  | send (new : Option PendingSend) (t : State) (hcode : code = 5 ∨ code = 6 ∨ code = 7)
      (hq : queueSend new s = .next t) : ClientOperationDoes code s t
  | crc8 (v : Byte) (hcode : code = 8) : ClientOperationDoes code s { s with result := some v }
  | nothing : ClientOperationDoes code s s

theorem clientOperation_does {r : ClientReq} {s t : State}
    (h : exec (decode (.client r)) s = .next t) : ClientOperationDoes r.code s t := by
  rcases clientOperation_cases r s t h with ⟨rom, eighth, pin, hi, rfl⟩ | ⟨hi, rfl⟩ | ⟨v, hi, rfl⟩ |
    ⟨v, hi, rfl⟩ | ⟨v, hi, rfl⟩ | ⟨hcode, new, hq⟩ | ⟨hcode, rfl⟩ | ⟨-, rfl⟩
  · rw [setUp_endIfEnabled]
    exact .establish rom (code_of_decode hi rfl)
  · split
    · exact .tearDown (code_of_decode hi rfl)
    · exact .nothing
  · exact .setRecvCb v (code_of_decode hi rfl)
  · exact .setBitCb v (code_of_decode hi rfl)
  · exact .alarmed v (code_of_decode hi rfl)
  · exact .send new t hcode hq
  · exact .crc8 _ hcode
  · exact .nothing

namespace ClientOperationDoes
variable {code : BitVec 4} {s t : State}

/-- No operation writes the presence phase, the match buffer or the cursor of the ROM send. -/
theorem cursors (h : ClientOperationDoes code s t) :
    t.apPhase = s.apPhase ∧ t.rxBuf = s.rxBuf ∧ t.txCur = s.txCur := by
  cases h with
  | send new _ _ hq =>
    obtain ⟨phase, buffer, cursor, -⟩ := queueSend_fields new s t hq
    exact ⟨phase, buffer, cursor⟩
  | establish | tearDown | setRecvCb | setBitCb | alarmed | crc8 | nothing => exact ⟨rfl, rfl, rfl⟩

/-- Only BEGIN writes the identity, `resume_allowed` and the search round. -/
theorem identity (h : ClientOperationDoes code s t) (hbegin : code ≠ 0) :
    t.rom = s.rom ∧ t.resumeAllowed = s.resumeAllowed ∧
      t.searchPhase = s.searchPhase ∧ t.searchIdx = s.searchIdx := by
  cases h with
  | establish _ hcode => exact absurd hcode hbegin
  | send new _ _ hq =>
    obtain ⟨-, -, -, resume, phase, idx, -⟩ := queueSend_fields new s t hq
    exact ⟨(keptOf_queueSend new s t hq).rom, resume, phase, idx⟩
  | tearDown | setRecvCb | setBitCb | alarmed | crc8 | nothing => exact ⟨rfl, rfl, rfl, rfl⟩

/-- Only BEGIN and END write the enable of the block, the timer, the output register and the edge
record. -/
theorem line (h : ClientOperationDoes code s t) (hbegin : code ≠ 0) (hend : code ≠ 1) :
    t.enabled = s.enabled ∧ t.timer = s.timer ∧ t.driveLow = s.driveLow ∧ t.lowStart = s.lowStart := by
  cases h with
  | establish _ hcode => exact absurd hcode hbegin
  | tearDown hcode => exact absurd hcode hend
  | send new _ _ hq =>
    obtain ⟨-, -, -, -, -, -, timer, drive, low⟩ := queueSend_fields new s t hq
    exact ⟨(keptOf_queueSend new s t hq).enabled, timer, drive, low⟩
  | setRecvCb | setBitCb | alarmed | crc8 | nothing => exact ⟨rfl, rfl, rfl, rfl⟩

theorem alarmed_eq (h : ClientOperationDoes code s t) (hbegin : code ≠ 0) (halarmed : code ≠ 4) :
    t.alarmed = s.alarmed := by
  cases h with
  | establish _ hcode => exact absurd hcode hbegin
  | alarmed _ hcode => exact absurd hcode halarmed
  | send new _ _ hq => exact (keptOf_queueSend new s t hq).alarmed
  | tearDown | setRecvCb | setBitCb | crc8 | nothing => rfl

theorem recvCbEn_eq (h : ClientOperationDoes code s t) (hrecv : code ≠ 2) :
    t.recvCbEn = s.recvCbEn := by
  cases h with
  | setRecvCb _ hcode => exact absurd hcode hrecv
  | send new _ _ hq => exact (keptOf_queueSend new s t hq).recvCbEn
  | establish | tearDown | setBitCb | alarmed | crc8 | nothing => rfl

theorem bitCbEn_eq (h : ClientOperationDoes code s t) (hbit : code ≠ 3) : t.bitCbEn = s.bitCbEn := by
  cases h with
  | setBitCb _ hcode => exact absurd hcode hbit
  | send new _ _ hq => exact (keptOf_queueSend new s t hq).bitCbEn
  | establish | tearDown | setRecvCb | alarmed | crc8 | nothing => rfl

/-- Only the three operations that queue a send may emit. -/
theorem out_eq (h : ClientOperationDoes code s t) (hwrite : code ≠ 5) (hbit : code ≠ 6)
    (hstop : code ≠ 7) : t.out = s.out := by
  cases h with
  | send _ _ hcode => exact absurd hcode (not_or.2 ⟨hwrite, not_or.2 ⟨hbit, hstop⟩⟩)
  | establish | tearDown | setRecvCb | setBitCb | alarmed | crc8 | nothing => rfl

theorem result_eq (h : ClientOperationDoes code s t) (hcrc : code ≠ 8) : t.result = s.result := by
  cases h with
  | crc8 _ hcode => exact absurd hcode hcrc
  | send new _ _ hq => exact (keptOf_queueSend new s t hq).result
  | establish | tearDown | setRecvCb | setBitCb | alarmed | nothing => rfl

/-- No operation writes anything outside the block but the notifications and the result port. -/
theorem env (h : ClientOperationDoes code s t) :
    t.cfg = s.cfg ∧ t.now = s.now ∧ t.ext = s.ext ∧ t.lineSeen = s.lineSeen ∧
      t.inputs = s.inputs ∧ t.reactions = s.reactions ∧ t.ties = s.ties := by
  cases h with
  | send new _ _ hq =>
    have kept := keptOf_queueSend new s t hq
    exact ⟨kept.cfg, kept.now, kept.ext, kept.lineSeen, kept.inputs, kept.reactions, kept.ties⟩
  | establish | tearDown | setRecvCb | setBitCb | alarmed | crc8 | nothing =>
    exact ⟨rfl, rfl, rfl, rfl, rfl, rfl, rfl⟩

end ClientOperationDoes

/-- Settles O48: the writers of each field, by `ClientOperationDoes`, and the client's memory, in which no
operation stores. -/
theorem clientOperationFrame : Obligations.ClientOperationFrame := by
  intro s t req h
  have does := clientOperation_does h
  obtain ⟨phase, buffer, cursor⟩ := does.cursors
  exact ⟨phase, buffer, cursor, does.identity, does.line, does.alarmed_eq, does.recvCbEn_eq,
    does.bitCbEn_eq, does.out_eq, does.result_eq, fun a => by rw [clientOperation_tx h], does.env⟩

end Sys2Proof.Machine
end

section
/-! PROOFS, 70_reset_and_hazards.md: the block after power-on reset (O49). -/

namespace Sys2Proof.Machine

/-- What stands around the block at power-on leaves the block's own fields alone. -/
@[simp] theorem State.reset_toBlock : State.reset.toBlock = Block.reset := rfl

/-- Settles O49: the block of the machine after reset is `Block.reset`, which gives each field its value
of R321. -/
theorem powerOnState : Obligations.PowerOnState := by
  simp only [Obligations.PowerOnState, State.reset_toBlock, Block.reset, and_self]

end Sys2Proof.Machine
end
